-- ==== Sys2Proof/Word.lean ====
section
/-! DEFINITION. The machine's data widths (R8, R11, R91): byte, word and quad as bit vectors, and the plainest
arithmetic on them. Bit 0 is the least significant bit everywhere. -/

namespace Sys2Proof

/-- An 8-bit datum (R91). -/
abbrev Byte := BitVec 8

/-- A 16-bit datum, also the unit of instruction length (R18, R91). -/
abbrev Word := BitVec 16

/-- A 32-bit datum: the width of every ALU register, of the PC and of an address (R31, R35, R81). -/
abbrev Quad := BitVec 32

/-- An ALU register number, R0 to R15 (R31). -/
abbrev Reg := BitVec 4

/-- A 4-bit condition code (R48). -/
abbrev CC := BitVec 4

/-- R15, the Stack Pointer (R32). -/
abbrev spReg : Reg := 15#4

/-- R14, the Frame Pointer (R33). -/
abbrev fpReg : Reg := 14#4

end Sys2Proof
end

