-- ==== Sys2Proof/Syntax.lean ====
section
/-! DEFINITION. The instruction set: one constructor for each row of spec/opcode_table.json that is an opcode of its
own (431 rows), and one each for POP, POP.UB, POP.UW, POP.SB, POP.SW and for CPCZ Rd, whose words the table lists as
another name of a core instruction. A docstring gives the assembler form, the words and the rule of the spec.
After it stand the operand forms the spec tabulates (R204, R210, R314 to R327), and for each the instruction it is.
The functions that build instructions are noncomputable for one reason only: Lean's compiled runtime has no tag for the
245th constructor with fields and beyond. Lean's kernel evaluates them. -/

namespace Sys2Proof

/-- The instructions (R120, R140 to R176). A register operand is a register number, every other operand is the field
the encoding holds, not yet extended. Don't-care bits of an encoding are no operand (R124). -/
inductive Instr where
  /-- `ADD Rd,#imm32`: `101010101000dddd iiiiiiiiiiiiiiii iiiiiiiiiiiiiiii` (R205; with the Extend latch ADC, R207). -/
  | addImm32 (rd : Reg) (imm : BitVec 32)
  /-- `ADD Rd,#uimm16`: `101010100000dddd iiiiiiiiiiiiiiii` (R205; with the Extend latch ADC, R207). -/
  | addUimm16 (rd : Reg) (imm : BitVec 16)
  /-- `ADD Rd,Rs`: `10100000ssssdddd` (R205; with the Extend latch ADC, R207). -/
  | addReg (rd : Reg) (rs : Reg)
  /-- `ADD Rd,addr16`: `011100000100dddd aaaaaaaaaaaaaaaa` (R205; with the Extend latch ADC, R207). -/
  | addAddr16 (rd : Reg) (addr : BitVec 16)
  /-- `ADD Rd,addr32`: `011100001100dddd aaaaaaaaaaaaaaaa aaaaaaaaaaaaaaaa` (R205; with the Extend latch ADC, R207). -/
  | addAddr32 (rd : Reg) (addr : BitVec 32)
  /-- `ADD Rd,soff13(Rs)`: `01111000ssssdddd 100rrrrrrrrrrrrr` (R205; with the Extend latch ADC, R207). -/
  | addInd (rd : Reg) (rs : Reg) (off : BitVec 13)
  /-- `ADD.SW Rd,addr16`: `011100000011dddd aaaaaaaaaaaaaaaa` (R205; with the Extend latch ADC.SW, R207). -/
  | addSWAddr16 (rd : Reg) (addr : BitVec 16)
  /-- `ADD.SW Rd,addr32`: `011100001011dddd aaaaaaaaaaaaaaaa aaaaaaaaaaaaaaaa` (R205; with the Extend latch ADC.SW, R207). -/
  | addSWAddr32 (rd : Reg) (addr : BitVec 32)
  /-- `ADD.SW Rd,soff13(Rs)`: `01111000ssssdddd 011rrrrrrrrrrrrr` (R205; with the Extend latch ADC.SW, R207). -/
  | addSWInd (rd : Reg) (rs : Reg) (off : BitVec 13)
  /-- `ADD.UW Rd,addr16`: `011100000010dddd aaaaaaaaaaaaaaaa` (R205; with the Extend latch ADC.UW, R207). -/
  | addUWAddr16 (rd : Reg) (addr : BitVec 16)
  /-- `ADD.UW Rd,addr32`: `011100001010dddd aaaaaaaaaaaaaaaa aaaaaaaaaaaaaaaa` (R205; with the Extend latch ADC.UW, R207). -/
  | addUWAddr32 (rd : Reg) (addr : BitVec 32)
  /-- `ADD.UW Rd,soff13(Rs)`: `01111000ssssdddd 010rrrrrrrrrrrrr` (R205; with the Extend latch ADC.UW, R207). -/
  | addUWInd (rd : Reg) (rs : Reg) (off : BitVec 13)
  /-- `ADD.SB Rd,addr16`: `011100000001dddd aaaaaaaaaaaaaaaa` (R205; with the Extend latch ADC.SB, R207). -/
  | addSBAddr16 (rd : Reg) (addr : BitVec 16)
  /-- `ADD.SB Rd,addr32`: `011100001001dddd aaaaaaaaaaaaaaaa aaaaaaaaaaaaaaaa` (R205; with the Extend latch ADC.SB, R207). -/
  | addSBAddr32 (rd : Reg) (addr : BitVec 32)
  /-- `ADD.SB Rd,soff13(Rs)`: `01111000ssssdddd 001rrrrrrrrrrrrr` (R205; with the Extend latch ADC.SB, R207). -/
  | addSBInd (rd : Reg) (rs : Reg) (off : BitVec 13)
  /-- `ADD.UB Rd,addr16`: `011100000000dddd aaaaaaaaaaaaaaaa` (R205; with the Extend latch ADC.UB, R207). -/
  | addUBAddr16 (rd : Reg) (addr : BitVec 16)
  /-- `ADD.UB Rd,addr32`: `011100001000dddd aaaaaaaaaaaaaaaa aaaaaaaaaaaaaaaa` (R205; with the Extend latch ADC.UB, R207). -/
  | addUBAddr32 (rd : Reg) (addr : BitVec 32)
  /-- `ADD.UB Rd,soff13(Rs)`: `01111000ssssdddd 000rrrrrrrrrrrrr` (R205; with the Extend latch ADC.UB, R207). -/
  | addUBInd (rd : Reg) (rs : Reg) (off : BitVec 13)
  /-- `ADD addr16,Rs`: `011100000111ssss aaaaaaaaaaaaaaaa` (R205; with the Extend latch ADC, R207). -/
  | addToAddr16 (addr : BitVec 16) (rs : Reg)
  /-- `ADD addr32,Rs`: `011100001111ssss aaaaaaaaaaaaaaaa aaaaaaaaaaaaaaaa` (R205; with the Extend latch ADC, R207). -/
  | addToAddr32 (addr : BitVec 32) (rs : Reg)
  /-- `ADD soff13(Rd),Rs`: `01111000ssssdddd 111rrrrrrrrrrrrr` (R205; with the Extend latch ADC, R207). -/
  | addToInd (rd : Reg) (off : BitVec 13) (rs : Reg)
  /-- `ADD.W addr16,Rs`: `011100000110ssss aaaaaaaaaaaaaaaa` (R205; with the Extend latch ADC.W, R207). -/
  | addWToAddr16 (addr : BitVec 16) (rs : Reg)
  /-- `ADD.W addr32,Rs`: `011100001110ssss aaaaaaaaaaaaaaaa aaaaaaaaaaaaaaaa` (R205; with the Extend latch ADC.W, R207). -/
  | addWToAddr32 (addr : BitVec 32) (rs : Reg)
  /-- `ADD.W soff13(Rd),Rs`: `01111000ssssdddd 110rrrrrrrrrrrrr` (R205; with the Extend latch ADC.W, R207). -/
  | addWToInd (rd : Reg) (off : BitVec 13) (rs : Reg)
  /-- `ADD.B addr16,Rs`: `011100000101ssss aaaaaaaaaaaaaaaa` (R205; with the Extend latch ADC.B, R207). -/
  | addBToAddr16 (addr : BitVec 16) (rs : Reg)
  /-- `ADD.B addr32,Rs`: `011100001101ssss aaaaaaaaaaaaaaaa aaaaaaaaaaaaaaaa` (R205; with the Extend latch ADC.B, R207). -/
  | addBToAddr32 (addr : BitVec 32) (rs : Reg)
  /-- `ADD.B soff13(Rd),Rs`: `01111000ssssdddd 101rrrrrrrrrrrrr` (R205; with the Extend latch ADC.B, R207). -/
  | addBToInd (rd : Reg) (off : BitVec 13) (rs : Reg)
  /-- `ADD (Rd),#imm32`: `101010111000dddd iiiiiiiiiiiiiiii iiiiiiiiiiiiiiii` (R205; with the Extend latch ADC, R207). -/
  | addMemImm32 (rd : Reg) (imm : BitVec 32)
  /-- `ADD (Rd),#simm16`: `101011010000dddd iiiiiiiiiiiiiiii` (R205; with the Extend latch ADC, R207). -/
  | addMemSimm16 (rd : Reg) (imm : BitVec 16)
  /-- `ADD.W (Rd),#imm16`: `101010110000dddd iiiiiiiiiiiiiiii` (R205; with the Extend latch ADC.W, R207). -/
  | addWMemImm16 (rd : Reg) (imm : BitVec 16)
  /-- `ADD.B (Rd),#imm8`: `101011011001dddd xxxxx000iiiiiiii` (R205; with the Extend latch ADC.B, R207). -/
  | addBMemImm8 (rd : Reg) (imm : BitVec 8)
  /-- `SUB Rd,#imm32`: `101010101001dddd iiiiiiiiiiiiiiii iiiiiiiiiiiiiiii` (R208; with the Extend latch SBC, R209). -/
  | subImm32 (rd : Reg) (imm : BitVec 32)
  /-- `SUB Rd,#uimm16`: `101010100001dddd iiiiiiiiiiiiiiii` (R208; with the Extend latch SBC, R209). -/
  | subUimm16 (rd : Reg) (imm : BitVec 16)
  /-- `SUB Rd,Rs`: `10100001ssssdddd` (R208; with the Extend latch SBC, R209). -/
  | subReg (rd : Reg) (rs : Reg)
  /-- `SUB Rd,addr16`: `011100010100dddd aaaaaaaaaaaaaaaa` (R208; with the Extend latch SBC, R209). -/
  | subAddr16 (rd : Reg) (addr : BitVec 16)
  /-- `SUB Rd,addr32`: `011100011100dddd aaaaaaaaaaaaaaaa aaaaaaaaaaaaaaaa` (R208; with the Extend latch SBC, R209). -/
  | subAddr32 (rd : Reg) (addr : BitVec 32)
  /-- `SUB Rd,soff13(Rs)`: `01111001ssssdddd 100rrrrrrrrrrrrr` (R208; with the Extend latch SBC, R209). -/
  | subInd (rd : Reg) (rs : Reg) (off : BitVec 13)
  /-- `SUB.SW Rd,addr16`: `011100010011dddd aaaaaaaaaaaaaaaa` (R208; with the Extend latch SBC.SW, R209). -/
  | subSWAddr16 (rd : Reg) (addr : BitVec 16)
  /-- `SUB.SW Rd,addr32`: `011100011011dddd aaaaaaaaaaaaaaaa aaaaaaaaaaaaaaaa` (R208; with the Extend latch SBC.SW, R209). -/
  | subSWAddr32 (rd : Reg) (addr : BitVec 32)
  /-- `SUB.SW Rd,soff13(Rs)`: `01111001ssssdddd 011rrrrrrrrrrrrr` (R208; with the Extend latch SBC.SW, R209). -/
  | subSWInd (rd : Reg) (rs : Reg) (off : BitVec 13)
  /-- `SUB.UW Rd,addr16`: `011100010010dddd aaaaaaaaaaaaaaaa` (R208; with the Extend latch SBC.UW, R209). -/
  | subUWAddr16 (rd : Reg) (addr : BitVec 16)
  /-- `SUB.UW Rd,addr32`: `011100011010dddd aaaaaaaaaaaaaaaa aaaaaaaaaaaaaaaa` (R208; with the Extend latch SBC.UW, R209). -/
  | subUWAddr32 (rd : Reg) (addr : BitVec 32)
  /-- `SUB.UW Rd,soff13(Rs)`: `01111001ssssdddd 010rrrrrrrrrrrrr` (R208; with the Extend latch SBC.UW, R209). -/
  | subUWInd (rd : Reg) (rs : Reg) (off : BitVec 13)
  /-- `SUB.SB Rd,addr16`: `011100010001dddd aaaaaaaaaaaaaaaa` (R208; with the Extend latch SBC.SB, R209). -/
  | subSBAddr16 (rd : Reg) (addr : BitVec 16)
  /-- `SUB.SB Rd,addr32`: `011100011001dddd aaaaaaaaaaaaaaaa aaaaaaaaaaaaaaaa` (R208; with the Extend latch SBC.SB, R209). -/
  | subSBAddr32 (rd : Reg) (addr : BitVec 32)
  /-- `SUB.SB Rd,soff13(Rs)`: `01111001ssssdddd 001rrrrrrrrrrrrr` (R208; with the Extend latch SBC.SB, R209). -/
  | subSBInd (rd : Reg) (rs : Reg) (off : BitVec 13)
  /-- `SUB.UB Rd,addr16`: `011100010000dddd aaaaaaaaaaaaaaaa` (R208; with the Extend latch SBC.UB, R209). -/
  | subUBAddr16 (rd : Reg) (addr : BitVec 16)
  /-- `SUB.UB Rd,addr32`: `011100011000dddd aaaaaaaaaaaaaaaa aaaaaaaaaaaaaaaa` (R208; with the Extend latch SBC.UB, R209). -/
  | subUBAddr32 (rd : Reg) (addr : BitVec 32)
  /-- `SUB.UB Rd,soff13(Rs)`: `01111001ssssdddd 000rrrrrrrrrrrrr` (R208; with the Extend latch SBC.UB, R209). -/
  | subUBInd (rd : Reg) (rs : Reg) (off : BitVec 13)
  /-- `SUB addr16,Rs`: `011100010111ssss aaaaaaaaaaaaaaaa` (R208; with the Extend latch SBC, R209). -/
  | subToAddr16 (addr : BitVec 16) (rs : Reg)
  /-- `SUB addr32,Rs`: `011100011111ssss aaaaaaaaaaaaaaaa aaaaaaaaaaaaaaaa` (R208; with the Extend latch SBC, R209). -/
  | subToAddr32 (addr : BitVec 32) (rs : Reg)
  /-- `SUB soff13(Rd),Rs`: `01111001ssssdddd 111rrrrrrrrrrrrr` (R208; with the Extend latch SBC, R209). -/
  | subToInd (rd : Reg) (off : BitVec 13) (rs : Reg)
  /-- `SUB.W addr16,Rs`: `011100010110ssss aaaaaaaaaaaaaaaa` (R208; with the Extend latch SBC.W, R209). -/
  | subWToAddr16 (addr : BitVec 16) (rs : Reg)
  /-- `SUB.W addr32,Rs`: `011100011110ssss aaaaaaaaaaaaaaaa aaaaaaaaaaaaaaaa` (R208; with the Extend latch SBC.W, R209). -/
  | subWToAddr32 (addr : BitVec 32) (rs : Reg)
  /-- `SUB.W soff13(Rd),Rs`: `01111001ssssdddd 110rrrrrrrrrrrrr` (R208; with the Extend latch SBC.W, R209). -/
  | subWToInd (rd : Reg) (off : BitVec 13) (rs : Reg)
  /-- `SUB.B addr16,Rs`: `011100010101ssss aaaaaaaaaaaaaaaa` (R208; with the Extend latch SBC.B, R209). -/
  | subBToAddr16 (addr : BitVec 16) (rs : Reg)
  /-- `SUB.B addr32,Rs`: `011100011101ssss aaaaaaaaaaaaaaaa aaaaaaaaaaaaaaaa` (R208; with the Extend latch SBC.B, R209). -/
  | subBToAddr32 (addr : BitVec 32) (rs : Reg)
  /-- `SUB.B soff13(Rd),Rs`: `01111001ssssdddd 101rrrrrrrrrrrrr` (R208; with the Extend latch SBC.B, R209). -/
  | subBToInd (rd : Reg) (off : BitVec 13) (rs : Reg)
  /-- `SUB (Rd),#imm32`: `101010111001dddd iiiiiiiiiiiiiiii iiiiiiiiiiiiiiii` (R208; with the Extend latch SBC, R209). -/
  | subMemImm32 (rd : Reg) (imm : BitVec 32)
  /-- `SUB (Rd),#simm16`: `101011010001dddd iiiiiiiiiiiiiiii` (R208; with the Extend latch SBC, R209). -/
  | subMemSimm16 (rd : Reg) (imm : BitVec 16)
  /-- `SUB.W (Rd),#imm16`: `101010110001dddd iiiiiiiiiiiiiiii` (R208; with the Extend latch SBC.W, R209). -/
  | subWMemImm16 (rd : Reg) (imm : BitVec 16)
  /-- `SUB.B (Rd),#imm8`: `101011011001dddd xxxxx001iiiiiiii` (R208; with the Extend latch SBC.B, R209). -/
  | subBMemImm8 (rd : Reg) (imm : BitVec 8)
  /-- `AND Rd,#imm32`: `101010101010dddd iiiiiiiiiiiiiiii iiiiiiiiiiiiiiii` (R261). -/
  | andImm32 (rd : Reg) (imm : BitVec 32)
  /-- `AND Rd,#uimm16`: `101010100010dddd iiiiiiiiiiiiiiii` (R261). -/
  | andUimm16 (rd : Reg) (imm : BitVec 16)
  /-- `AND Rd,Rs`: `10100010ssssdddd` (R261). -/
  | andReg (rd : Reg) (rs : Reg)
  /-- `AND Rd,addr16`: `011100100100dddd aaaaaaaaaaaaaaaa` (R261). -/
  | andAddr16 (rd : Reg) (addr : BitVec 16)
  /-- `AND Rd,addr32`: `011100101100dddd aaaaaaaaaaaaaaaa aaaaaaaaaaaaaaaa` (R261). -/
  | andAddr32 (rd : Reg) (addr : BitVec 32)
  /-- `AND Rd,soff13(Rs)`: `01111010ssssdddd 100rrrrrrrrrrrrr` (R261). -/
  | andInd (rd : Reg) (rs : Reg) (off : BitVec 13)
  /-- `AND.SW Rd,addr16`: `011100100011dddd aaaaaaaaaaaaaaaa` (R261). -/
  | andSWAddr16 (rd : Reg) (addr : BitVec 16)
  /-- `AND.SW Rd,addr32`: `011100101011dddd aaaaaaaaaaaaaaaa aaaaaaaaaaaaaaaa` (R261). -/
  | andSWAddr32 (rd : Reg) (addr : BitVec 32)
  /-- `AND.SW Rd,soff13(Rs)`: `01111010ssssdddd 011rrrrrrrrrrrrr` (R261). -/
  | andSWInd (rd : Reg) (rs : Reg) (off : BitVec 13)
  /-- `AND.UW Rd,addr16`: `011100100010dddd aaaaaaaaaaaaaaaa` (R261). -/
  | andUWAddr16 (rd : Reg) (addr : BitVec 16)
  /-- `AND.UW Rd,addr32`: `011100101010dddd aaaaaaaaaaaaaaaa aaaaaaaaaaaaaaaa` (R261). -/
  | andUWAddr32 (rd : Reg) (addr : BitVec 32)
  /-- `AND.UW Rd,soff13(Rs)`: `01111010ssssdddd 010rrrrrrrrrrrrr` (R261). -/
  | andUWInd (rd : Reg) (rs : Reg) (off : BitVec 13)
  /-- `AND.SB Rd,addr16`: `011100100001dddd aaaaaaaaaaaaaaaa` (R261). -/
  | andSBAddr16 (rd : Reg) (addr : BitVec 16)
  /-- `AND.SB Rd,addr32`: `011100101001dddd aaaaaaaaaaaaaaaa aaaaaaaaaaaaaaaa` (R261). -/
  | andSBAddr32 (rd : Reg) (addr : BitVec 32)
  /-- `AND.SB Rd,soff13(Rs)`: `01111010ssssdddd 001rrrrrrrrrrrrr` (R261). -/
  | andSBInd (rd : Reg) (rs : Reg) (off : BitVec 13)
  /-- `AND.UB Rd,addr16`: `011100100000dddd aaaaaaaaaaaaaaaa` (R261). -/
  | andUBAddr16 (rd : Reg) (addr : BitVec 16)
  /-- `AND.UB Rd,addr32`: `011100101000dddd aaaaaaaaaaaaaaaa aaaaaaaaaaaaaaaa` (R261). -/
  | andUBAddr32 (rd : Reg) (addr : BitVec 32)
  /-- `AND.UB Rd,soff13(Rs)`: `01111010ssssdddd 000rrrrrrrrrrrrr` (R261). -/
  | andUBInd (rd : Reg) (rs : Reg) (off : BitVec 13)
  /-- `AND addr16,Rs`: `011100100111ssss aaaaaaaaaaaaaaaa` (R261). -/
  | andToAddr16 (addr : BitVec 16) (rs : Reg)
  /-- `AND addr32,Rs`: `011100101111ssss aaaaaaaaaaaaaaaa aaaaaaaaaaaaaaaa` (R261). -/
  | andToAddr32 (addr : BitVec 32) (rs : Reg)
  /-- `AND soff13(Rd),Rs`: `01111010ssssdddd 111rrrrrrrrrrrrr` (R261). -/
  | andToInd (rd : Reg) (off : BitVec 13) (rs : Reg)
  /-- `AND.W addr16,Rs`: `011100100110ssss aaaaaaaaaaaaaaaa` (R261). -/
  | andWToAddr16 (addr : BitVec 16) (rs : Reg)
  /-- `AND.W addr32,Rs`: `011100101110ssss aaaaaaaaaaaaaaaa aaaaaaaaaaaaaaaa` (R261). -/
  | andWToAddr32 (addr : BitVec 32) (rs : Reg)
  /-- `AND.W soff13(Rd),Rs`: `01111010ssssdddd 110rrrrrrrrrrrrr` (R261). -/
  | andWToInd (rd : Reg) (off : BitVec 13) (rs : Reg)
  /-- `AND.B addr16,Rs`: `011100100101ssss aaaaaaaaaaaaaaaa` (R261). -/
  | andBToAddr16 (addr : BitVec 16) (rs : Reg)
  /-- `AND.B addr32,Rs`: `011100101101ssss aaaaaaaaaaaaaaaa aaaaaaaaaaaaaaaa` (R261). -/
  | andBToAddr32 (addr : BitVec 32) (rs : Reg)
  /-- `AND.B soff13(Rd),Rs`: `01111010ssssdddd 101rrrrrrrrrrrrr` (R261). -/
  | andBToInd (rd : Reg) (off : BitVec 13) (rs : Reg)
  /-- `AND (Rd),#imm32`: `101010111010dddd iiiiiiiiiiiiiiii iiiiiiiiiiiiiiii` (R261). -/
  | andMemImm32 (rd : Reg) (imm : BitVec 32)
  /-- `AND (Rd),#simm16`: `101011010010dddd iiiiiiiiiiiiiiii` (R261). -/
  | andMemSimm16 (rd : Reg) (imm : BitVec 16)
  /-- `AND.W (Rd),#imm16`: `101010110010dddd iiiiiiiiiiiiiiii` (R261). -/
  | andWMemImm16 (rd : Reg) (imm : BitVec 16)
  /-- `AND.B (Rd),#imm8`: `101011011001dddd xxxxx010iiiiiiii` (R261). -/
  | andBMemImm8 (rd : Reg) (imm : BitVec 8)
  /-- `OR Rd,#imm32`: `101010101011dddd iiiiiiiiiiiiiiii iiiiiiiiiiiiiiii` (R262). -/
  | orImm32 (rd : Reg) (imm : BitVec 32)
  /-- `OR Rd,#uimm16`: `101010100011dddd iiiiiiiiiiiiiiii` (R262). -/
  | orUimm16 (rd : Reg) (imm : BitVec 16)
  /-- `OR Rd,Rs`: `10100011ssssdddd` (R262). -/
  | orReg (rd : Reg) (rs : Reg)
  /-- `OR Rd,addr16`: `011100110100dddd aaaaaaaaaaaaaaaa` (R262). -/
  | orAddr16 (rd : Reg) (addr : BitVec 16)
  /-- `OR Rd,addr32`: `011100111100dddd aaaaaaaaaaaaaaaa aaaaaaaaaaaaaaaa` (R262). -/
  | orAddr32 (rd : Reg) (addr : BitVec 32)
  /-- `OR Rd,soff13(Rs)`: `01111011ssssdddd 100rrrrrrrrrrrrr` (R262). -/
  | orInd (rd : Reg) (rs : Reg) (off : BitVec 13)
  /-- `OR.SW Rd,addr16`: `011100110011dddd aaaaaaaaaaaaaaaa` (R262). -/
  | orSWAddr16 (rd : Reg) (addr : BitVec 16)
  /-- `OR.SW Rd,addr32`: `011100111011dddd aaaaaaaaaaaaaaaa aaaaaaaaaaaaaaaa` (R262). -/
  | orSWAddr32 (rd : Reg) (addr : BitVec 32)
  /-- `OR.SW Rd,soff13(Rs)`: `01111011ssssdddd 011rrrrrrrrrrrrr` (R262). -/
  | orSWInd (rd : Reg) (rs : Reg) (off : BitVec 13)
  /-- `OR.UW Rd,addr16`: `011100110010dddd aaaaaaaaaaaaaaaa` (R262). -/
  | orUWAddr16 (rd : Reg) (addr : BitVec 16)
  /-- `OR.UW Rd,addr32`: `011100111010dddd aaaaaaaaaaaaaaaa aaaaaaaaaaaaaaaa` (R262). -/
  | orUWAddr32 (rd : Reg) (addr : BitVec 32)
  /-- `OR.UW Rd,soff13(Rs)`: `01111011ssssdddd 010rrrrrrrrrrrrr` (R262). -/
  | orUWInd (rd : Reg) (rs : Reg) (off : BitVec 13)
  /-- `OR.SB Rd,addr16`: `011100110001dddd aaaaaaaaaaaaaaaa` (R262). -/
  | orSBAddr16 (rd : Reg) (addr : BitVec 16)
  /-- `OR.SB Rd,addr32`: `011100111001dddd aaaaaaaaaaaaaaaa aaaaaaaaaaaaaaaa` (R262). -/
  | orSBAddr32 (rd : Reg) (addr : BitVec 32)
  /-- `OR.SB Rd,soff13(Rs)`: `01111011ssssdddd 001rrrrrrrrrrrrr` (R262). -/
  | orSBInd (rd : Reg) (rs : Reg) (off : BitVec 13)
  /-- `OR.UB Rd,addr16`: `011100110000dddd aaaaaaaaaaaaaaaa` (R262). -/
  | orUBAddr16 (rd : Reg) (addr : BitVec 16)
  /-- `OR.UB Rd,addr32`: `011100111000dddd aaaaaaaaaaaaaaaa aaaaaaaaaaaaaaaa` (R262). -/
  | orUBAddr32 (rd : Reg) (addr : BitVec 32)
  /-- `OR.UB Rd,soff13(Rs)`: `01111011ssssdddd 000rrrrrrrrrrrrr` (R262). -/
  | orUBInd (rd : Reg) (rs : Reg) (off : BitVec 13)
  /-- `OR addr16,Rs`: `011100110111ssss aaaaaaaaaaaaaaaa` (R262). -/
  | orToAddr16 (addr : BitVec 16) (rs : Reg)
  /-- `OR addr32,Rs`: `011100111111ssss aaaaaaaaaaaaaaaa aaaaaaaaaaaaaaaa` (R262). -/
  | orToAddr32 (addr : BitVec 32) (rs : Reg)
  /-- `OR soff13(Rd),Rs`: `01111011ssssdddd 111rrrrrrrrrrrrr` (R262). -/
  | orToInd (rd : Reg) (off : BitVec 13) (rs : Reg)
  /-- `OR.W addr16,Rs`: `011100110110ssss aaaaaaaaaaaaaaaa` (R262). -/
  | orWToAddr16 (addr : BitVec 16) (rs : Reg)
  /-- `OR.W addr32,Rs`: `011100111110ssss aaaaaaaaaaaaaaaa aaaaaaaaaaaaaaaa` (R262). -/
  | orWToAddr32 (addr : BitVec 32) (rs : Reg)
  /-- `OR.W soff13(Rd),Rs`: `01111011ssssdddd 110rrrrrrrrrrrrr` (R262). -/
  | orWToInd (rd : Reg) (off : BitVec 13) (rs : Reg)
  /-- `OR.B addr16,Rs`: `011100110101ssss aaaaaaaaaaaaaaaa` (R262). -/
  | orBToAddr16 (addr : BitVec 16) (rs : Reg)
  /-- `OR.B addr32,Rs`: `011100111101ssss aaaaaaaaaaaaaaaa aaaaaaaaaaaaaaaa` (R262). -/
  | orBToAddr32 (addr : BitVec 32) (rs : Reg)
  /-- `OR.B soff13(Rd),Rs`: `01111011ssssdddd 101rrrrrrrrrrrrr` (R262). -/
  | orBToInd (rd : Reg) (off : BitVec 13) (rs : Reg)
  /-- `OR (Rd),#imm32`: `101010111011dddd iiiiiiiiiiiiiiii iiiiiiiiiiiiiiii` (R262). -/
  | orMemImm32 (rd : Reg) (imm : BitVec 32)
  /-- `OR (Rd),#simm16`: `101011010011dddd iiiiiiiiiiiiiiii` (R262). -/
  | orMemSimm16 (rd : Reg) (imm : BitVec 16)
  /-- `OR.W (Rd),#imm16`: `101010110011dddd iiiiiiiiiiiiiiii` (R262). -/
  | orWMemImm16 (rd : Reg) (imm : BitVec 16)
  /-- `OR.B (Rd),#imm8`: `101011011001dddd xxxxx011iiiiiiii` (R262). -/
  | orBMemImm8 (rd : Reg) (imm : BitVec 8)
  /-- `XOR Rd,#imm32`: `101010101100dddd iiiiiiiiiiiiiiii iiiiiiiiiiiiiiii` (R263). -/
  | xorImm32 (rd : Reg) (imm : BitVec 32)
  /-- `XOR Rd,#uimm16`: `101010100100dddd iiiiiiiiiiiiiiii` (R263). -/
  | xorUimm16 (rd : Reg) (imm : BitVec 16)
  /-- `XOR Rd,Rs`: `10100100ssssdddd` (R263). -/
  | xorReg (rd : Reg) (rs : Reg)
  /-- `XOR Rd,addr16`: `011101000100dddd aaaaaaaaaaaaaaaa` (R263). -/
  | xorAddr16 (rd : Reg) (addr : BitVec 16)
  /-- `XOR Rd,addr32`: `011101001100dddd aaaaaaaaaaaaaaaa aaaaaaaaaaaaaaaa` (R263). -/
  | xorAddr32 (rd : Reg) (addr : BitVec 32)
  /-- `XOR Rd,soff13(Rs)`: `01111100ssssdddd 100rrrrrrrrrrrrr` (R263). -/
  | xorInd (rd : Reg) (rs : Reg) (off : BitVec 13)
  /-- `XOR.SW Rd,addr16`: `011101000011dddd aaaaaaaaaaaaaaaa` (R263). -/
  | xorSWAddr16 (rd : Reg) (addr : BitVec 16)
  /-- `XOR.SW Rd,addr32`: `011101001011dddd aaaaaaaaaaaaaaaa aaaaaaaaaaaaaaaa` (R263). -/
  | xorSWAddr32 (rd : Reg) (addr : BitVec 32)
  /-- `XOR.SW Rd,soff13(Rs)`: `01111100ssssdddd 011rrrrrrrrrrrrr` (R263). -/
  | xorSWInd (rd : Reg) (rs : Reg) (off : BitVec 13)
  /-- `XOR.UW Rd,addr16`: `011101000010dddd aaaaaaaaaaaaaaaa` (R263). -/
  | xorUWAddr16 (rd : Reg) (addr : BitVec 16)
  /-- `XOR.UW Rd,addr32`: `011101001010dddd aaaaaaaaaaaaaaaa aaaaaaaaaaaaaaaa` (R263). -/
  | xorUWAddr32 (rd : Reg) (addr : BitVec 32)
  /-- `XOR.UW Rd,soff13(Rs)`: `01111100ssssdddd 010rrrrrrrrrrrrr` (R263). -/
  | xorUWInd (rd : Reg) (rs : Reg) (off : BitVec 13)
  /-- `XOR.SB Rd,addr16`: `011101000001dddd aaaaaaaaaaaaaaaa` (R263). -/
  | xorSBAddr16 (rd : Reg) (addr : BitVec 16)
  /-- `XOR.SB Rd,addr32`: `011101001001dddd aaaaaaaaaaaaaaaa aaaaaaaaaaaaaaaa` (R263). -/
  | xorSBAddr32 (rd : Reg) (addr : BitVec 32)
  /-- `XOR.SB Rd,soff13(Rs)`: `01111100ssssdddd 001rrrrrrrrrrrrr` (R263). -/
  | xorSBInd (rd : Reg) (rs : Reg) (off : BitVec 13)
  /-- `XOR.UB Rd,addr16`: `011101000000dddd aaaaaaaaaaaaaaaa` (R263). -/
  | xorUBAddr16 (rd : Reg) (addr : BitVec 16)
  /-- `XOR.UB Rd,addr32`: `011101001000dddd aaaaaaaaaaaaaaaa aaaaaaaaaaaaaaaa` (R263). -/
  | xorUBAddr32 (rd : Reg) (addr : BitVec 32)
  /-- `XOR.UB Rd,soff13(Rs)`: `01111100ssssdddd 000rrrrrrrrrrrrr` (R263). -/
  | xorUBInd (rd : Reg) (rs : Reg) (off : BitVec 13)
  /-- `XOR addr16,Rs`: `011101000111ssss aaaaaaaaaaaaaaaa` (R263). -/
  | xorToAddr16 (addr : BitVec 16) (rs : Reg)
  /-- `XOR addr32,Rs`: `011101001111ssss aaaaaaaaaaaaaaaa aaaaaaaaaaaaaaaa` (R263). -/
  | xorToAddr32 (addr : BitVec 32) (rs : Reg)
  /-- `XOR soff13(Rd),Rs`: `01111100ssssdddd 111rrrrrrrrrrrrr` (R263). -/
  | xorToInd (rd : Reg) (off : BitVec 13) (rs : Reg)
  /-- `XOR.W addr16,Rs`: `011101000110ssss aaaaaaaaaaaaaaaa` (R263). -/
  | xorWToAddr16 (addr : BitVec 16) (rs : Reg)
  /-- `XOR.W addr32,Rs`: `011101001110ssss aaaaaaaaaaaaaaaa aaaaaaaaaaaaaaaa` (R263). -/
  | xorWToAddr32 (addr : BitVec 32) (rs : Reg)
  /-- `XOR.W soff13(Rd),Rs`: `01111100ssssdddd 110rrrrrrrrrrrrr` (R263). -/
  | xorWToInd (rd : Reg) (off : BitVec 13) (rs : Reg)
  /-- `XOR.B addr16,Rs`: `011101000101ssss aaaaaaaaaaaaaaaa` (R263). -/
  | xorBToAddr16 (addr : BitVec 16) (rs : Reg)
  /-- `XOR.B addr32,Rs`: `011101001101ssss aaaaaaaaaaaaaaaa aaaaaaaaaaaaaaaa` (R263). -/
  | xorBToAddr32 (addr : BitVec 32) (rs : Reg)
  /-- `XOR.B soff13(Rd),Rs`: `01111100ssssdddd 101rrrrrrrrrrrrr` (R263). -/
  | xorBToInd (rd : Reg) (off : BitVec 13) (rs : Reg)
  /-- `XOR (Rd),#imm32`: `101010111100dddd iiiiiiiiiiiiiiii iiiiiiiiiiiiiiii` (R263). -/
  | xorMemImm32 (rd : Reg) (imm : BitVec 32)
  /-- `XOR (Rd),#simm16`: `101011010100dddd iiiiiiiiiiiiiiii` (R263). -/
  | xorMemSimm16 (rd : Reg) (imm : BitVec 16)
  /-- `XOR.W (Rd),#imm16`: `101010110100dddd iiiiiiiiiiiiiiii` (R263). -/
  | xorWMemImm16 (rd : Reg) (imm : BitVec 16)
  /-- `XOR.B (Rd),#imm8`: `101011011001dddd xxxxx100iiiiiiii` (R263). -/
  | xorBMemImm8 (rd : Reg) (imm : BitVec 8)
  /-- `CP Rd,#imm32`: `101010101101dddd iiiiiiiiiiiiiiii iiiiiiiiiiiiiiii` (R213; with the Extend latch CPC, R211). -/
  | cpImm32 (rd : Reg) (imm : BitVec 32)
  /-- `CP Rd,#uimm16`: `101010100101dddd iiiiiiiiiiiiiiii` (R213; with the Extend latch CPC, R211). -/
  | cpUimm16 (rd : Reg) (imm : BitVec 16)
  /-- `CP Rd,Rs`: `10100101ssssdddd` (R213; with the Extend latch CPC, R211). -/
  | cpReg (rd : Reg) (rs : Reg)
  /-- `CP Rd,addr16`: `011101010100dddd aaaaaaaaaaaaaaaa` (R213; with the Extend latch CPC, R211). -/
  | cpAddr16 (rd : Reg) (addr : BitVec 16)
  /-- `CP Rd,addr32`: `011101011100dddd aaaaaaaaaaaaaaaa aaaaaaaaaaaaaaaa` (R213; with the Extend latch CPC, R211). -/
  | cpAddr32 (rd : Reg) (addr : BitVec 32)
  /-- `CP Rd,soff13(Rs)`: `01111101ssssdddd 100rrrrrrrrrrrrr` (R213; with the Extend latch CPC, R211). -/
  | cpInd (rd : Reg) (rs : Reg) (off : BitVec 13)
  /-- `CP.SW Rd,addr16`: `011101010011dddd aaaaaaaaaaaaaaaa` (R213; with the Extend latch CPC.SW, R211). -/
  | cpSWAddr16 (rd : Reg) (addr : BitVec 16)
  /-- `CP.SW Rd,addr32`: `011101011011dddd aaaaaaaaaaaaaaaa aaaaaaaaaaaaaaaa` (R213; with the Extend latch CPC.SW, R211). -/
  | cpSWAddr32 (rd : Reg) (addr : BitVec 32)
  /-- `CP.SW Rd,soff13(Rs)`: `01111101ssssdddd 011rrrrrrrrrrrrr` (R213; with the Extend latch CPC.SW, R211). -/
  | cpSWInd (rd : Reg) (rs : Reg) (off : BitVec 13)
  /-- `CP.UW Rd,addr16`: `011101010010dddd aaaaaaaaaaaaaaaa` (R213; with the Extend latch CPC.UW, R211). -/
  | cpUWAddr16 (rd : Reg) (addr : BitVec 16)
  /-- `CP.UW Rd,addr32`: `011101011010dddd aaaaaaaaaaaaaaaa aaaaaaaaaaaaaaaa` (R213; with the Extend latch CPC.UW, R211). -/
  | cpUWAddr32 (rd : Reg) (addr : BitVec 32)
  /-- `CP.UW Rd,soff13(Rs)`: `01111101ssssdddd 010rrrrrrrrrrrrr` (R213; with the Extend latch CPC.UW, R211). -/
  | cpUWInd (rd : Reg) (rs : Reg) (off : BitVec 13)
  /-- `CP.SB Rd,addr16`: `011101010001dddd aaaaaaaaaaaaaaaa` (R213; with the Extend latch CPC.SB, R211). -/
  | cpSBAddr16 (rd : Reg) (addr : BitVec 16)
  /-- `CP.SB Rd,addr32`: `011101011001dddd aaaaaaaaaaaaaaaa aaaaaaaaaaaaaaaa` (R213; with the Extend latch CPC.SB, R211). -/
  | cpSBAddr32 (rd : Reg) (addr : BitVec 32)
  /-- `CP.SB Rd,soff13(Rs)`: `01111101ssssdddd 001rrrrrrrrrrrrr` (R213; with the Extend latch CPC.SB, R211). -/
  | cpSBInd (rd : Reg) (rs : Reg) (off : BitVec 13)
  /-- `CP.UB Rd,addr16`: `011101010000dddd aaaaaaaaaaaaaaaa` (R213; with the Extend latch CPC.UB, R211). -/
  | cpUBAddr16 (rd : Reg) (addr : BitVec 16)
  /-- `CP.UB Rd,addr32`: `011101011000dddd aaaaaaaaaaaaaaaa aaaaaaaaaaaaaaaa` (R213; with the Extend latch CPC.UB, R211). -/
  | cpUBAddr32 (rd : Reg) (addr : BitVec 32)
  /-- `CP.UB Rd,soff13(Rs)`: `01111101ssssdddd 000rrrrrrrrrrrrr` (R213; with the Extend latch CPC.UB, R211). -/
  | cpUBInd (rd : Reg) (rs : Reg) (off : BitVec 13)
  /-- `CP addr16,Rs`: `011101010111ssss aaaaaaaaaaaaaaaa` (R213; with the Extend latch CPC, R211). -/
  | cpToAddr16 (addr : BitVec 16) (rs : Reg)
  /-- `CP addr32,Rs`: `011101011111ssss aaaaaaaaaaaaaaaa aaaaaaaaaaaaaaaa` (R213; with the Extend latch CPC, R211). -/
  | cpToAddr32 (addr : BitVec 32) (rs : Reg)
  /-- `CP soff13(Rd),Rs`: `01111101ssssdddd 111rrrrrrrrrrrrr` (R213; with the Extend latch CPC, R211). -/
  | cpToInd (rd : Reg) (off : BitVec 13) (rs : Reg)
  /-- `CP.W addr16,Rs`: `011101010110ssss aaaaaaaaaaaaaaaa` (R213; with the Extend latch CPC.W, R211). -/
  | cpWToAddr16 (addr : BitVec 16) (rs : Reg)
  /-- `CP.W addr32,Rs`: `011101011110ssss aaaaaaaaaaaaaaaa aaaaaaaaaaaaaaaa` (R213; with the Extend latch CPC.W, R211). -/
  | cpWToAddr32 (addr : BitVec 32) (rs : Reg)
  /-- `CP.W soff13(Rd),Rs`: `01111101ssssdddd 110rrrrrrrrrrrrr` (R213; with the Extend latch CPC.W, R211). -/
  | cpWToInd (rd : Reg) (off : BitVec 13) (rs : Reg)
  /-- `CP.B addr16,Rs`: `011101010101ssss aaaaaaaaaaaaaaaa` (R213; with the Extend latch CPC.B, R211). -/
  | cpBToAddr16 (addr : BitVec 16) (rs : Reg)
  /-- `CP.B addr32,Rs`: `011101011101ssss aaaaaaaaaaaaaaaa aaaaaaaaaaaaaaaa` (R213; with the Extend latch CPC.B, R211). -/
  | cpBToAddr32 (addr : BitVec 32) (rs : Reg)
  /-- `CP.B soff13(Rd),Rs`: `01111101ssssdddd 101rrrrrrrrrrrrr` (R213; with the Extend latch CPC.B, R211). -/
  | cpBToInd (rd : Reg) (off : BitVec 13) (rs : Reg)
  /-- `CP (Rd),#imm32`: `101010111101dddd iiiiiiiiiiiiiiii iiiiiiiiiiiiiiii` (R213; with the Extend latch CPC, R211). -/
  | cpMemImm32 (rd : Reg) (imm : BitVec 32)
  /-- `CP (Rd),#simm16`: `101011010101dddd iiiiiiiiiiiiiiii` (R213; with the Extend latch CPC, R211). -/
  | cpMemSimm16 (rd : Reg) (imm : BitVec 16)
  /-- `CP.W (Rd),#imm16`: `101010110101dddd iiiiiiiiiiiiiiii` (R213; with the Extend latch CPC.W, R211). -/
  | cpWMemImm16 (rd : Reg) (imm : BitVec 16)
  /-- `CP.B (Rd),#imm8`: `101011011001dddd xxxxx101iiiiiiii` (R213; with the Extend latch CPC.B, R211). -/
  | cpBMemImm8 (rd : Reg) (imm : BitVec 8)
  /-- `TM Rd,#imm32`: `101010101110dddd iiiiiiiiiiiiiiii iiiiiiiiiiiiiiii` (R281). -/
  | tmImm32 (rd : Reg) (imm : BitVec 32)
  /-- `TM Rd,#uimm16`: `101010100110dddd iiiiiiiiiiiiiiii` (R281). -/
  | tmUimm16 (rd : Reg) (imm : BitVec 16)
  /-- `TM Rd,Rs`: `10100110ssssdddd` (R281). -/
  | tmReg (rd : Reg) (rs : Reg)
  /-- `TM Rd,addr16`: `011101100100dddd aaaaaaaaaaaaaaaa` (R281). -/
  | tmAddr16 (rd : Reg) (addr : BitVec 16)
  /-- `TM Rd,addr32`: `011101101100dddd aaaaaaaaaaaaaaaa aaaaaaaaaaaaaaaa` (R281). -/
  | tmAddr32 (rd : Reg) (addr : BitVec 32)
  /-- `TM Rd,soff13(Rs)`: `01111110ssssdddd 100rrrrrrrrrrrrr` (R281). -/
  | tmInd (rd : Reg) (rs : Reg) (off : BitVec 13)
  /-- `TM.SW Rd,addr16`: `011101100011dddd aaaaaaaaaaaaaaaa` (R281). -/
  | tmSWAddr16 (rd : Reg) (addr : BitVec 16)
  /-- `TM.SW Rd,addr32`: `011101101011dddd aaaaaaaaaaaaaaaa aaaaaaaaaaaaaaaa` (R281). -/
  | tmSWAddr32 (rd : Reg) (addr : BitVec 32)
  /-- `TM.SW Rd,soff13(Rs)`: `01111110ssssdddd 011rrrrrrrrrrrrr` (R281). -/
  | tmSWInd (rd : Reg) (rs : Reg) (off : BitVec 13)
  /-- `TM.UW Rd,addr16`: `011101100010dddd aaaaaaaaaaaaaaaa` (R281). -/
  | tmUWAddr16 (rd : Reg) (addr : BitVec 16)
  /-- `TM.UW Rd,addr32`: `011101101010dddd aaaaaaaaaaaaaaaa aaaaaaaaaaaaaaaa` (R281). -/
  | tmUWAddr32 (rd : Reg) (addr : BitVec 32)
  /-- `TM.UW Rd,soff13(Rs)`: `01111110ssssdddd 010rrrrrrrrrrrrr` (R281). -/
  | tmUWInd (rd : Reg) (rs : Reg) (off : BitVec 13)
  /-- `TM.SB Rd,addr16`: `011101100001dddd aaaaaaaaaaaaaaaa` (R281). -/
  | tmSBAddr16 (rd : Reg) (addr : BitVec 16)
  /-- `TM.SB Rd,addr32`: `011101101001dddd aaaaaaaaaaaaaaaa aaaaaaaaaaaaaaaa` (R281). -/
  | tmSBAddr32 (rd : Reg) (addr : BitVec 32)
  /-- `TM.SB Rd,soff13(Rs)`: `01111110ssssdddd 001rrrrrrrrrrrrr` (R281). -/
  | tmSBInd (rd : Reg) (rs : Reg) (off : BitVec 13)
  /-- `TM.UB Rd,addr16`: `011101100000dddd aaaaaaaaaaaaaaaa` (R281). -/
  | tmUBAddr16 (rd : Reg) (addr : BitVec 16)
  /-- `TM.UB Rd,addr32`: `011101101000dddd aaaaaaaaaaaaaaaa aaaaaaaaaaaaaaaa` (R281). -/
  | tmUBAddr32 (rd : Reg) (addr : BitVec 32)
  /-- `TM.UB Rd,soff13(Rs)`: `01111110ssssdddd 000rrrrrrrrrrrrr` (R281). -/
  | tmUBInd (rd : Reg) (rs : Reg) (off : BitVec 13)
  /-- `TM addr16,Rs`: `011101100111ssss aaaaaaaaaaaaaaaa` (R281). -/
  | tmToAddr16 (addr : BitVec 16) (rs : Reg)
  /-- `TM addr32,Rs`: `011101101111ssss aaaaaaaaaaaaaaaa aaaaaaaaaaaaaaaa` (R281). -/
  | tmToAddr32 (addr : BitVec 32) (rs : Reg)
  /-- `TM soff13(Rd),Rs`: `01111110ssssdddd 111rrrrrrrrrrrrr` (R281). -/
  | tmToInd (rd : Reg) (off : BitVec 13) (rs : Reg)
  /-- `TM.W addr16,Rs`: `011101100110ssss aaaaaaaaaaaaaaaa` (R281). -/
  | tmWToAddr16 (addr : BitVec 16) (rs : Reg)
  /-- `TM.W addr32,Rs`: `011101101110ssss aaaaaaaaaaaaaaaa aaaaaaaaaaaaaaaa` (R281). -/
  | tmWToAddr32 (addr : BitVec 32) (rs : Reg)
  /-- `TM.W soff13(Rd),Rs`: `01111110ssssdddd 110rrrrrrrrrrrrr` (R281). -/
  | tmWToInd (rd : Reg) (off : BitVec 13) (rs : Reg)
  /-- `TM.B addr16,Rs`: `011101100101ssss aaaaaaaaaaaaaaaa` (R281). -/
  | tmBToAddr16 (addr : BitVec 16) (rs : Reg)
  /-- `TM.B addr32,Rs`: `011101101101ssss aaaaaaaaaaaaaaaa aaaaaaaaaaaaaaaa` (R281). -/
  | tmBToAddr32 (addr : BitVec 32) (rs : Reg)
  /-- `TM.B soff13(Rd),Rs`: `01111110ssssdddd 101rrrrrrrrrrrrr` (R281). -/
  | tmBToInd (rd : Reg) (off : BitVec 13) (rs : Reg)
  /-- `TM (Rd),#imm32`: `101010111110dddd iiiiiiiiiiiiiiii iiiiiiiiiiiiiiii` (R281). -/
  | tmMemImm32 (rd : Reg) (imm : BitVec 32)
  /-- `TM (Rd),#simm16`: `101011010110dddd iiiiiiiiiiiiiiii` (R281). -/
  | tmMemSimm16 (rd : Reg) (imm : BitVec 16)
  /-- `TM.W (Rd),#imm16`: `101010110110dddd iiiiiiiiiiiiiiii` (R281). -/
  | tmWMemImm16 (rd : Reg) (imm : BitVec 16)
  /-- `TM.B (Rd),#imm8`: `101011011001dddd xxxxx110iiiiiiii` (R281). -/
  | tmBMemImm8 (rd : Reg) (imm : BitVec 8)
  /-- `TCM Rd,#imm32`: `101010101111dddd iiiiiiiiiiiiiiii iiiiiiiiiiiiiiii` (R282). -/
  | tcmImm32 (rd : Reg) (imm : BitVec 32)
  /-- `TCM Rd,#uimm16`: `101010100111dddd iiiiiiiiiiiiiiii` (R282). -/
  | tcmUimm16 (rd : Reg) (imm : BitVec 16)
  /-- `TCM Rd,Rs`: `10100111ssssdddd` (R282). -/
  | tcmReg (rd : Reg) (rs : Reg)
  /-- `TCM Rd,addr16`: `011101110100dddd aaaaaaaaaaaaaaaa` (R282). -/
  | tcmAddr16 (rd : Reg) (addr : BitVec 16)
  /-- `TCM Rd,addr32`: `011101111100dddd aaaaaaaaaaaaaaaa aaaaaaaaaaaaaaaa` (R282). -/
  | tcmAddr32 (rd : Reg) (addr : BitVec 32)
  /-- `TCM Rd,soff13(Rs)`: `01111111ssssdddd 100rrrrrrrrrrrrr` (R282). -/
  | tcmInd (rd : Reg) (rs : Reg) (off : BitVec 13)
  /-- `TCM.SW Rd,addr16`: `011101110011dddd aaaaaaaaaaaaaaaa` (R282). -/
  | tcmSWAddr16 (rd : Reg) (addr : BitVec 16)
  /-- `TCM.SW Rd,addr32`: `011101111011dddd aaaaaaaaaaaaaaaa aaaaaaaaaaaaaaaa` (R282). -/
  | tcmSWAddr32 (rd : Reg) (addr : BitVec 32)
  /-- `TCM.SW Rd,soff13(Rs)`: `01111111ssssdddd 011rrrrrrrrrrrrr` (R282). -/
  | tcmSWInd (rd : Reg) (rs : Reg) (off : BitVec 13)
  /-- `TCM.UW Rd,addr16`: `011101110010dddd aaaaaaaaaaaaaaaa` (R282). -/
  | tcmUWAddr16 (rd : Reg) (addr : BitVec 16)
  /-- `TCM.UW Rd,addr32`: `011101111010dddd aaaaaaaaaaaaaaaa aaaaaaaaaaaaaaaa` (R282). -/
  | tcmUWAddr32 (rd : Reg) (addr : BitVec 32)
  /-- `TCM.UW Rd,soff13(Rs)`: `01111111ssssdddd 010rrrrrrrrrrrrr` (R282). -/
  | tcmUWInd (rd : Reg) (rs : Reg) (off : BitVec 13)
  /-- `TCM.SB Rd,addr16`: `011101110001dddd aaaaaaaaaaaaaaaa` (R282). -/
  | tcmSBAddr16 (rd : Reg) (addr : BitVec 16)
  /-- `TCM.SB Rd,addr32`: `011101111001dddd aaaaaaaaaaaaaaaa aaaaaaaaaaaaaaaa` (R282). -/
  | tcmSBAddr32 (rd : Reg) (addr : BitVec 32)
  /-- `TCM.SB Rd,soff13(Rs)`: `01111111ssssdddd 001rrrrrrrrrrrrr` (R282). -/
  | tcmSBInd (rd : Reg) (rs : Reg) (off : BitVec 13)
  /-- `TCM.UB Rd,addr16`: `011101110000dddd aaaaaaaaaaaaaaaa` (R282). -/
  | tcmUBAddr16 (rd : Reg) (addr : BitVec 16)
  /-- `TCM.UB Rd,addr32`: `011101111000dddd aaaaaaaaaaaaaaaa aaaaaaaaaaaaaaaa` (R282). -/
  | tcmUBAddr32 (rd : Reg) (addr : BitVec 32)
  /-- `TCM.UB Rd,soff13(Rs)`: `01111111ssssdddd 000rrrrrrrrrrrrr` (R282). -/
  | tcmUBInd (rd : Reg) (rs : Reg) (off : BitVec 13)
  /-- `TCM addr16,Rs`: `011101110111ssss aaaaaaaaaaaaaaaa` (R282). -/
  | tcmToAddr16 (addr : BitVec 16) (rs : Reg)
  /-- `TCM addr32,Rs`: `011101111111ssss aaaaaaaaaaaaaaaa aaaaaaaaaaaaaaaa` (R282). -/
  | tcmToAddr32 (addr : BitVec 32) (rs : Reg)
  /-- `TCM soff13(Rd),Rs`: `01111111ssssdddd 111rrrrrrrrrrrrr` (R282). -/
  | tcmToInd (rd : Reg) (off : BitVec 13) (rs : Reg)
  /-- `TCM.W addr16,Rs`: `011101110110ssss aaaaaaaaaaaaaaaa` (R282). -/
  | tcmWToAddr16 (addr : BitVec 16) (rs : Reg)
  /-- `TCM.W addr32,Rs`: `011101111110ssss aaaaaaaaaaaaaaaa aaaaaaaaaaaaaaaa` (R282). -/
  | tcmWToAddr32 (addr : BitVec 32) (rs : Reg)
  /-- `TCM.W soff13(Rd),Rs`: `01111111ssssdddd 110rrrrrrrrrrrrr` (R282). -/
  | tcmWToInd (rd : Reg) (off : BitVec 13) (rs : Reg)
  /-- `TCM.B addr16,Rs`: `011101110101ssss aaaaaaaaaaaaaaaa` (R282). -/
  | tcmBToAddr16 (addr : BitVec 16) (rs : Reg)
  /-- `TCM.B addr32,Rs`: `011101111101ssss aaaaaaaaaaaaaaaa aaaaaaaaaaaaaaaa` (R282). -/
  | tcmBToAddr32 (addr : BitVec 32) (rs : Reg)
  /-- `TCM.B soff13(Rd),Rs`: `01111111ssssdddd 101rrrrrrrrrrrrr` (R282). -/
  | tcmBToInd (rd : Reg) (off : BitVec 13) (rs : Reg)
  /-- `TCM (Rd),#imm32`: `101010111111dddd iiiiiiiiiiiiiiii iiiiiiiiiiiiiiii` (R282). -/
  | tcmMemImm32 (rd : Reg) (imm : BitVec 32)
  /-- `TCM (Rd),#simm16`: `101011010111dddd iiiiiiiiiiiiiiii` (R282). -/
  | tcmMemSimm16 (rd : Reg) (imm : BitVec 16)
  /-- `TCM.W (Rd),#imm16`: `101010110111dddd iiiiiiiiiiiiiiii` (R282). -/
  | tcmWMemImm16 (rd : Reg) (imm : BitVec 16)
  /-- `TCM.B (Rd),#imm8`: `101011011001dddd xxxxx111iiiiiiii` (R282). -/
  | tcmBMemImm8 (rd : Reg) (imm : BitVec 8)
  /-- `ADD Rd,Rs1+Rs2`: `0010ddddsssstttt` (R206; with the Extend latch ADC, R207). -/
  | addReg3 (rd : Reg) (rs1 : Reg) (rs2 : Reg)
  /-- `ADD Rd,#simm8`: `1000ddddiiiiiiii` (R205; with the Extend latch ADC, R207). -/
  | addSimm8 (rd : Reg) (imm : BitVec 8)
  /-- `CP Rd,#simm8`: `1001ddddiiiiiiii` (R213; with the Extend latch CPC, R211). -/
  | cpSimm8 (rd : Reg) (imm : BitVec 8)
  /-- `CLR addr16`: `1010110110101x00 aaaaaaaaaaaaaaaa` (R350). -/
  | clrAddr16 (addr : BitVec 16)
  /-- `CLR addr32`: `1010110110111x00 aaaaaaaaaaaaaaaa aaaaaaaaaaaaaaaa` (R350). -/
  | clrAddr32 (addr : BitVec 32)
  /-- `CLR (Rd)`: `101011001x00dddd` (R350). -/
  | clrMem (rd : Reg)
  /-- `CLR soff14(Rd)`: `101011011100dddd 1xrrrrrrrrrrrrrr` (R350). -/
  | clrInd (rd : Reg) (off : BitVec 14)
  /-- `CLR.W addr16`: `1010110110100100 aaaaaaaaaaaaaaaa` (R350). -/
  | clrWAddr16 (addr : BitVec 16)
  /-- `CLR.W addr32`: `1010110110110100 aaaaaaaaaaaaaaaa aaaaaaaaaaaaaaaa` (R350). -/
  | clrWAddr32 (addr : BitVec 32)
  /-- `CLR.W (Rd)`: `101011000100dddd` (R350). -/
  | clrWMem (rd : Reg)
  /-- `CLR.W soff14(Rd)`: `101011011100dddd 01rrrrrrrrrrrrrr` (R350). -/
  | clrWInd (rd : Reg) (off : BitVec 14)
  /-- `CLR.B addr16`: `1010110110100000 aaaaaaaaaaaaaaaa` (R350). -/
  | clrBAddr16 (addr : BitVec 16)
  /-- `CLR.B addr32`: `1010110110110000 aaaaaaaaaaaaaaaa aaaaaaaaaaaaaaaa` (R350). -/
  | clrBAddr32 (addr : BitVec 32)
  /-- `CLR.B (Rd)`: `101011000000dddd` (R350). -/
  | clrBMem (rd : Reg)
  /-- `CLR.B soff14(Rd)`: `101011011100dddd 00rrrrrrrrrrrrrr` (R350). -/
  | clrBInd (rd : Reg) (off : BitVec 14)
  /-- `CPZ addr16`: `1010110110101x01 aaaaaaaaaaaaaaaa` (R214; with the Extend latch CPCZ, R215). -/
  | cpzAddr16 (addr : BitVec 16)
  /-- `CPZ addr32`: `1010110110111x01 aaaaaaaaaaaaaaaa aaaaaaaaaaaaaaaa` (R214; with the Extend latch CPCZ, R215). -/
  | cpzAddr32 (addr : BitVec 32)
  /-- `CPZ (Rd)`: `101011001x01dddd` (R214; with the Extend latch CPCZ, R215). -/
  | cpzMem (rd : Reg)
  /-- `CPZ soff14(Rd)`: `101011011101dddd 1xrrrrrrrrrrrrrr` (R214; with the Extend latch CPCZ, R215). -/
  | cpzInd (rd : Reg) (off : BitVec 14)
  /-- `CPZ.W addr16`: `1010110110100101 aaaaaaaaaaaaaaaa` (R214; with the Extend latch CPCZ.W, R215). -/
  | cpzWAddr16 (addr : BitVec 16)
  /-- `CPZ.W addr32`: `1010110110110101 aaaaaaaaaaaaaaaa aaaaaaaaaaaaaaaa` (R214; with the Extend latch CPCZ.W, R215). -/
  | cpzWAddr32 (addr : BitVec 32)
  /-- `CPZ.W (Rd)`: `101011000101dddd` (R214; with the Extend latch CPCZ.W, R215). -/
  | cpzWMem (rd : Reg)
  /-- `CPZ.W soff14(Rd)`: `101011011101dddd 01rrrrrrrrrrrrrr` (R214; with the Extend latch CPCZ.W, R215). -/
  | cpzWInd (rd : Reg) (off : BitVec 14)
  /-- `CPZ.B addr16`: `1010110110100001 aaaaaaaaaaaaaaaa` (R214; with the Extend latch CPCZ.B, R215). -/
  | cpzBAddr16 (addr : BitVec 16)
  /-- `CPZ.B addr32`: `1010110110110001 aaaaaaaaaaaaaaaa aaaaaaaaaaaaaaaa` (R214; with the Extend latch CPCZ.B, R215). -/
  | cpzBAddr32 (addr : BitVec 32)
  /-- `CPZ.B (Rd)`: `101011000001dddd` (R214; with the Extend latch CPCZ.B, R215). -/
  | cpzBMem (rd : Reg)
  /-- `CPZ.B soff14(Rd)`: `101011011101dddd 00rrrrrrrrrrrrrr` (R214; with the Extend latch CPCZ.B, R215). -/
  | cpzBInd (rd : Reg) (off : BitVec 14)
  /-- `INC addr16`: `1010110110101x10 aaaaaaaaaaaaaaaa` (R216). -/
  | incAddr16 (addr : BitVec 16)
  /-- `INC addr32`: `1010110110111x10 aaaaaaaaaaaaaaaa aaaaaaaaaaaaaaaa` (R216). -/
  | incAddr32 (addr : BitVec 32)
  /-- `INC (Rd)`: `101011001x10dddd` (R216). -/
  | incMem (rd : Reg)
  /-- `INC soff14(Rd)`: `101011011110dddd 1xrrrrrrrrrrrrrr` (R216). -/
  | incInd (rd : Reg) (off : BitVec 14)
  /-- `INC.W addr16`: `1010110110100110 aaaaaaaaaaaaaaaa` (R216). -/
  | incWAddr16 (addr : BitVec 16)
  /-- `INC.W addr32`: `1010110110110110 aaaaaaaaaaaaaaaa aaaaaaaaaaaaaaaa` (R216). -/
  | incWAddr32 (addr : BitVec 32)
  /-- `INC.W (Rd)`: `101011000110dddd` (R216). -/
  | incWMem (rd : Reg)
  /-- `INC.W soff14(Rd)`: `101011011110dddd 01rrrrrrrrrrrrrr` (R216). -/
  | incWInd (rd : Reg) (off : BitVec 14)
  /-- `INC.B addr16`: `1010110110100010 aaaaaaaaaaaaaaaa` (R216). -/
  | incBAddr16 (addr : BitVec 16)
  /-- `INC.B addr32`: `1010110110110010 aaaaaaaaaaaaaaaa aaaaaaaaaaaaaaaa` (R216). -/
  | incBAddr32 (addr : BitVec 32)
  /-- `INC.B (Rd)`: `101011000010dddd` (R216). -/
  | incBMem (rd : Reg)
  /-- `INC.B soff14(Rd)`: `101011011110dddd 00rrrrrrrrrrrrrr` (R216). -/
  | incBInd (rd : Reg) (off : BitVec 14)
  /-- `DEC addr16`: `1010110110101x11 aaaaaaaaaaaaaaaa` (R217). -/
  | decAddr16 (addr : BitVec 16)
  /-- `DEC addr32`: `1010110110111x11 aaaaaaaaaaaaaaaa aaaaaaaaaaaaaaaa` (R217). -/
  | decAddr32 (addr : BitVec 32)
  /-- `DEC (Rd)`: `101011001x11dddd` (R217). -/
  | decMem (rd : Reg)
  /-- `DEC soff14(Rd)`: `101011011111dddd 1xrrrrrrrrrrrrrr` (R217). -/
  | decInd (rd : Reg) (off : BitVec 14)
  /-- `DEC.W addr16`: `1010110110100111 aaaaaaaaaaaaaaaa` (R217). -/
  | decWAddr16 (addr : BitVec 16)
  /-- `DEC.W addr32`: `1010110110110111 aaaaaaaaaaaaaaaa aaaaaaaaaaaaaaaa` (R217). -/
  | decWAddr32 (addr : BitVec 32)
  /-- `DEC.W (Rd)`: `101011000111dddd` (R217). -/
  | decWMem (rd : Reg)
  /-- `DEC.W soff14(Rd)`: `101011011111dddd 01rrrrrrrrrrrrrr` (R217). -/
  | decWInd (rd : Reg) (off : BitVec 14)
  /-- `DEC.B addr16`: `1010110110100011 aaaaaaaaaaaaaaaa` (R217). -/
  | decBAddr16 (addr : BitVec 16)
  /-- `DEC.B addr32`: `1010110110110011 aaaaaaaaaaaaaaaa aaaaaaaaaaaaaaaa` (R217). -/
  | decBAddr32 (addr : BitVec 32)
  /-- `DEC.B (Rd)`: `101011000011dddd` (R217). -/
  | decBMem (rd : Reg)
  /-- `DEC.B soff14(Rd)`: `101011011111dddd 00rrrrrrrrrrrrrr` (R217). -/
  | decBInd (rd : Reg) (off : BitVec 14)
  /-- `LD Rd,soff14(PC)`: `000000000010dddd 0xrrrrrrrrrrrrrr` (R316). -/
  | ldPc (rd : Reg) (off : BitVec 14)
  /-- `LD Rd,addr16`: `000000110100dddd aaaaaaaaaaaaaaaa` (R314). -/
  | ldAddr16 (rd : Reg) (addr : BitVec 16)
  /-- `LD Rd,addr32`: `000000111100dddd aaaaaaaaaaaaaaaa aaaaaaaaaaaaaaaa` (R314). -/
  | ldAddr32 (rd : Reg) (addr : BitVec 32)
  /-- `LD Rd,(Rs)`: `00010010ssssdddd` (R315). -/
  | ldMem (rd : Reg) (rs : Reg)
  /-- `LD Rd,(Rs++)`: `00010011ssssdddd` (R315). -/
  | ldPostInc (rd : Reg) (rs : Reg)
  /-- `LD Rd,soff14(Rs)`: `01001000ssssdddd 0xrrrrrrrrrrrrrr` (R316). -/
  | ldInd (rd : Reg) (rs : Reg) (off : BitVec 14)
  /-- `LD Rd,soff6(FP)`: `010111rrrrrrdddd` (R317). -/
  | ldFp (rd : Reg) (off : BitVec 6)
  /-- `LD.UB Rd,soff14(PC)`: `000000000011dddd 00rrrrrrrrrrrrrr` (R316). -/
  | ldUBPc (rd : Reg) (off : BitVec 14)
  /-- `LD.UB Rd,addr16`: `000000110000dddd aaaaaaaaaaaaaaaa` (R314). -/
  | ldUBAddr16 (rd : Reg) (addr : BitVec 16)
  /-- `LD.UB Rd,addr32`: `000000111000dddd aaaaaaaaaaaaaaaa aaaaaaaaaaaaaaaa` (R314). -/
  | ldUBAddr32 (rd : Reg) (addr : BitVec 32)
  /-- `LD.UB Rd,(Rs)`: `00011000ssssdddd` (R315). -/
  | ldUBMem (rd : Reg) (rs : Reg)
  /-- `LD.UB Rd,(Rs++)`: `00011001ssssdddd` (R315). -/
  | ldUBPostInc (rd : Reg) (rs : Reg)
  /-- `LD.UB Rd,soff14(Rs)`: `01001001ssssdddd 00rrrrrrrrrrrrrr` (R316). -/
  | ldUBInd (rd : Reg) (rs : Reg) (off : BitVec 14)
  /-- `LD.UB Rd,soff6(FP)`: `011000rrrrrrdddd` (R317). -/
  | ldUBFp (rd : Reg) (off : BitVec 6)
  /-- `LD.UW Rd,soff14(PC)`: `000000000011dddd 01rrrrrrrrrrrrrr` (R316). -/
  | ldUWPc (rd : Reg) (off : BitVec 14)
  /-- `LD.UW Rd,addr16`: `000000110010dddd aaaaaaaaaaaaaaaa` (R314). -/
  | ldUWAddr16 (rd : Reg) (addr : BitVec 16)
  /-- `LD.UW Rd,addr32`: `000000111010dddd aaaaaaaaaaaaaaaa aaaaaaaaaaaaaaaa` (R314). -/
  | ldUWAddr32 (rd : Reg) (addr : BitVec 32)
  /-- `LD.UW Rd,(Rs)`: `00011010ssssdddd` (R315). -/
  | ldUWMem (rd : Reg) (rs : Reg)
  /-- `LD.UW Rd,(Rs++)`: `00011011ssssdddd` (R315). -/
  | ldUWPostInc (rd : Reg) (rs : Reg)
  /-- `LD.UW Rd,soff14(Rs)`: `01001001ssssdddd 01rrrrrrrrrrrrrr` (R316). -/
  | ldUWInd (rd : Reg) (rs : Reg) (off : BitVec 14)
  /-- `LD.UW Rd,soff6(FP)`: `011001rrrrrrdddd` (R317). -/
  | ldUWFp (rd : Reg) (off : BitVec 6)
  /-- `LD.SB Rd,soff14(PC)`: `000000000011dddd 10rrrrrrrrrrrrrr` (R316). -/
  | ldSBPc (rd : Reg) (off : BitVec 14)
  /-- `LD.SB Rd,addr16`: `000000110001dddd aaaaaaaaaaaaaaaa` (R314). -/
  | ldSBAddr16 (rd : Reg) (addr : BitVec 16)
  /-- `LD.SB Rd,addr32`: `000000111001dddd aaaaaaaaaaaaaaaa aaaaaaaaaaaaaaaa` (R314). -/
  | ldSBAddr32 (rd : Reg) (addr : BitVec 32)
  /-- `LD.SB Rd,(Rs)`: `00011100ssssdddd` (R315). -/
  | ldSBMem (rd : Reg) (rs : Reg)
  /-- `LD.SB Rd,(Rs++)`: `00011101ssssdddd` (R315). -/
  | ldSBPostInc (rd : Reg) (rs : Reg)
  /-- `LD.SB Rd,soff14(Rs)`: `01001001ssssdddd 10rrrrrrrrrrrrrr` (R316). -/
  | ldSBInd (rd : Reg) (rs : Reg) (off : BitVec 14)
  /-- `LD.SB Rd,soff6(FP)`: `011010rrrrrrdddd` (R317). -/
  | ldSBFp (rd : Reg) (off : BitVec 6)
  /-- `LD.SW Rd,soff14(PC)`: `000000000011dddd 11rrrrrrrrrrrrrr` (R316). -/
  | ldSWPc (rd : Reg) (off : BitVec 14)
  /-- `LD.SW Rd,addr16`: `000000110011dddd aaaaaaaaaaaaaaaa` (R314). -/
  | ldSWAddr16 (rd : Reg) (addr : BitVec 16)
  /-- `LD.SW Rd,addr32`: `000000111011dddd aaaaaaaaaaaaaaaa aaaaaaaaaaaaaaaa` (R314). -/
  | ldSWAddr32 (rd : Reg) (addr : BitVec 32)
  /-- `LD.SW Rd,(Rs)`: `00011110ssssdddd` (R315). -/
  | ldSWMem (rd : Reg) (rs : Reg)
  /-- `LD.SW Rd,(Rs++)`: `00011111ssssdddd` (R315). -/
  | ldSWPostInc (rd : Reg) (rs : Reg)
  /-- `LD.SW Rd,soff14(Rs)`: `01001001ssssdddd 11rrrrrrrrrrrrrr` (R316). -/
  | ldSWInd (rd : Reg) (rs : Reg) (off : BitVec 14)
  /-- `LD.SW Rd,soff6(FP)`: `011011rrrrrrdddd` (R317). -/
  | ldSWFp (rd : Reg) (off : BitVec 6)
  /-- `LD addr16,Rs`: `000000110111ssss aaaaaaaaaaaaaaaa` (R321). -/
  | ldToAddr16 (addr : BitVec 16) (rs : Reg)
  /-- `LD addr32,Rs`: `000000111111ssss aaaaaaaaaaaaaaaa aaaaaaaaaaaaaaaa` (R321). -/
  | ldToAddr32 (addr : BitVec 32) (rs : Reg)
  /-- `LD (Rd),Rs`: `00001011ssssdddd` (R322). -/
  | ldToMem (rd : Reg) (rs : Reg)
  /-- `LD (--Rd),Rs`: `00010000ssssdddd` (R323). -/
  | ldToPre (rd : Reg) (rs : Reg)
  /-- `LD (Rd++),Rs`: `00010001ssssdddd` (R324). -/
  | ldToPost (rd : Reg) (rs : Reg)
  /-- `LD soff14(Rd),Rs`: `01001010ssssdddd xxrrrrrrrrrrrrrr` (R322). -/
  | ldToInd (rd : Reg) (off : BitVec 14) (rs : Reg)
  /-- `LD soff6(FP),Rs`: `010110rrrrrrssss` (R322). -/
  | ldToFp (off : BitVec 6) (rs : Reg)
  /-- `LD.W addr16,Rs`: `000000110110ssss aaaaaaaaaaaaaaaa` (R321). -/
  | ldWToAddr16 (addr : BitVec 16) (rs : Reg)
  /-- `LD.W addr32,Rs`: `000000111110ssss aaaaaaaaaaaaaaaa aaaaaaaaaaaaaaaa` (R321). -/
  | ldWToAddr32 (addr : BitVec 32) (rs : Reg)
  /-- `LD.W (Rd),Rs`: `00001111ssssdddd` (R322). -/
  | ldWToMem (rd : Reg) (rs : Reg)
  /-- `LD.W (--Rd),Rs`: `00010110ssssdddd` (R323). -/
  | ldWToPre (rd : Reg) (rs : Reg)
  /-- `LD.W (Rd++),Rs`: `00010111ssssdddd` (R324). -/
  | ldWToPost (rd : Reg) (rs : Reg)
  /-- `LD.W soff14(Rd),Rs`: `01001011ssssdddd x1rrrrrrrrrrrrrr` (R322). -/
  | ldWToInd (rd : Reg) (off : BitVec 14) (rs : Reg)
  /-- `LD.W soff6(FP),Rs`: `010101rrrrrrssss` (R322). -/
  | ldWToFp (off : BitVec 6) (rs : Reg)
  /-- `LD.B addr16,Rs`: `000000110101ssss aaaaaaaaaaaaaaaa` (R321). -/
  | ldBToAddr16 (addr : BitVec 16) (rs : Reg)
  /-- `LD.B addr32,Rs`: `000000111101ssss aaaaaaaaaaaaaaaa aaaaaaaaaaaaaaaa` (R321). -/
  | ldBToAddr32 (addr : BitVec 32) (rs : Reg)
  /-- `LD.B (Rd),Rs`: `00001110ssssdddd` (R322). -/
  | ldBToMem (rd : Reg) (rs : Reg)
  /-- `LD.B (--Rd),Rs`: `00010100ssssdddd` (R323). -/
  | ldBToPre (rd : Reg) (rs : Reg)
  /-- `LD.B (Rd++),Rs`: `00010101ssssdddd` (R324). -/
  | ldBToPost (rd : Reg) (rs : Reg)
  /-- `LD.B soff14(Rd),Rs`: `01001011ssssdddd x0rrrrrrrrrrrrrr` (R322). -/
  | ldBToInd (rd : Reg) (off : BitVec 14) (rs : Reg)
  /-- `LD.B soff6(FP),Rs`: `010100rrrrrrssss` (R322). -/
  | ldBToFp (off : BitVec 6) (rs : Reg)
  /-- `LD (Rd),#imm32`: `000010011101dddd iiiiiiiiiiiiiiii iiiiiiiiiiiiiiii` (R325). -/
  | ldMemImm32 (rd : Reg) (imm : BitVec 32)
  /-- `LD (--Rd),#imm32`: `000010011110dddd iiiiiiiiiiiiiiii iiiiiiiiiiiiiiii` (R326). -/
  | ldPreImm32 (rd : Reg) (imm : BitVec 32)
  /-- `LD (Rd++),#imm32`: `000010011111dddd iiiiiiiiiiiiiiii iiiiiiiiiiiiiiii` (R327). -/
  | ldPostImm32 (rd : Reg) (imm : BitVec 32)
  /-- `LD (Rd),#simm16`: `000010010111dddd iiiiiiiiiiiiiiii` (R325). -/
  | ldMemSimm16 (rd : Reg) (imm : BitVec 16)
  /-- `LD (--Rd),#simm16`: `000010011001dddd iiiiiiiiiiiiiiii` (R326). -/
  | ldPreSimm16 (rd : Reg) (imm : BitVec 16)
  /-- `LD (Rd++),#simm16`: `000010011011dddd iiiiiiiiiiiiiiii` (R327). -/
  | ldPostSimm16 (rd : Reg) (imm : BitVec 16)
  /-- `LD.W (Rd),#imm16`: `000010010110dddd iiiiiiiiiiiiiiii` (R325). -/
  | ldWMemImm16 (rd : Reg) (imm : BitVec 16)
  /-- `LD.W (--Rd),#imm16`: `000010011000dddd iiiiiiiiiiiiiiii` (R326). -/
  | ldWPreImm16 (rd : Reg) (imm : BitVec 16)
  /-- `LD.W (Rd++),#imm16`: `000010011010dddd iiiiiiiiiiiiiiii` (R327). -/
  | ldWPostImm16 (rd : Reg) (imm : BitVec 16)
  /-- `LD.B (Rd),#imm8`: `000010011100dddd xxxxxxxxiiiiiiii` (R325). -/
  | ldBMemImm8 (rd : Reg) (imm : BitVec 8)
  /-- `LD.B (--Rd),#imm8`: `000010010100dddd xxxxxxxxiiiiiiii` (R326). -/
  | ldBPreImm8 (rd : Reg) (imm : BitVec 8)
  /-- `LD.B (Rd++),#imm8`: `000010010101dddd xxxxxxxxiiiiiiii` (R327). -/
  | ldBPostImm8 (rd : Reg) (imm : BitVec 8)
  /-- `LD Rd,#simm8`: `0011ddddiiiiiiii` (R311). -/
  | ldSimm8 (rd : Reg) (imm : BitVec 8)
  /-- `LD Rd,#simm17`: `01000101000idddd iiiiiiiiiiiiiiii` (R312). -/
  | ldSimm17 (rd : Reg) (imm : BitVec 17)
  /-- `LD Rd,#imm32`: `010001010010dddd iiiiiiiiiiiiiiii iiiiiiiiiiiiiiii` (R312). -/
  | ldImm32 (rd : Reg) (imm : BitVec 32)
  /-- `LD Rd,Rs`: `01000100ssssdddd` (R313). -/
  | ldReg (rd : Reg) (rs : Reg)
  /-- `LD_cc cc,Rd`: `00000001ccccdddd` (R338). -/
  | ldCc (cc : CC) (rd : Reg)
  /-- `LDES Rd`: `010001010011dddd` (R339). -/
  | ldes (rd : Reg)
  /-- `LEA Rd,soff14(PC)`: `000000000010dddd 1xrrrrrrrrrrrrrr` (R341). -/
  | leaPc (rd : Reg) (off : BitVec 14)
  /-- `LEA Rd,soff14(Rs)`: `01001000ssssdddd 1xrrrrrrrrrrrrrr` (R340). -/
  | leaInd (rd : Reg) (rs : Reg) (off : BitVec 14)
  /-- `LEA Rd,soff6(FP)`: `010011rrrrrrdddd` (R342). -/
  | leaFp (rd : Reg) (off : BitVec 6)
  /-- `EXT.UB Rd,Rs`: `01000000ssssdddd` (R345). -/
  | extUB (rd : Reg) (rs : Reg)
  /-- `EXT.UW Rd,Rs`: `01000001ssssdddd` (R345). -/
  | extUW (rd : Reg) (rs : Reg)
  /-- `EXT.SB Rd,Rs`: `01000010ssssdddd` (R345). -/
  | extSB (rd : Reg) (rs : Reg)
  /-- `EXT.SW Rd,Rs`: `01000011ssssdddd` (R345). -/
  | extSW (rd : Reg) (rs : Reg)
  /-- `COM Rd`: `010001010100dddd` (R266). -/
  | com (rd : Reg)
  /-- `NEG Rd`: `010001010101dddd` (R222). -/
  | neg (rd : Reg)
  /-- `PUSH.B #imm8`: `00001010iiiiiiii` (R361). -/
  | pushBImm8 (imm : BitVec 8)
  /-- `PUSH.W #simm8`: `00001100iiiiiiii` (R361). -/
  | pushWSimm8 (imm : BitVec 8)
  /-- `PUSH #simm8`: `00001101iiiiiiii` (R361). -/
  | pushSimm8 (imm : BitVec 8)
  /-- `POP Rd`: `000100111111dddd` (R364; words of LD Rd,(Rs++) with s=15). -/
  | pop (rd : Reg)
  /-- `POP.UB Rd`: `000110011111dddd` (R364; words of LD.UB Rd,(Rs++) with s=15). -/
  | popUB (rd : Reg)
  /-- `POP.UW Rd`: `000110111111dddd` (R364; words of LD.UW Rd,(Rs++) with s=15). -/
  | popUW (rd : Reg)
  /-- `POP.SB Rd`: `000111011111dddd` (R364; words of LD.SB Rd,(Rs++) with s=15). -/
  | popSB (rd : Reg)
  /-- `POP.SW Rd`: `000111111111dddd` (R364; words of LD.SW Rd,(Rs++) with s=15). -/
  | popSW (rd : Reg)
  /-- `PUSHMLO mask`: `00000100mmmmmmmm` (R372). -/
  | pushmLo (mask : BitVec 8)
  /-- `PUSHMHI mask`: `00000101mmmmmmmm` (R373). -/
  | pushmHi (mask : BitVec 8)
  /-- `POPMLO mask`: `00000110mmmmmmmm` (R374). -/
  | popmLo (mask : BitVec 8)
  /-- `POPMHI mask`: `00000111mmmmmmmm` (R375). -/
  | popmHi (mask : BitVec 8)
  /-- `PUSHF`: `0000000000000010` (R367). -/
  | pushf
  /-- `POPF`: `0000000000000011` (R368). -/
  | popf
  /-- `LINK #uimm8`: `00001000iiiiiiii` (R380). -/
  | link (imm : BitVec 8)
  /-- `UNLINK`: `0000000000000001` (R381). -/
  | unlink
  /-- `UDIV Rd,Rs`: `10101110ssssdddd` (R233; with the Extend latch UDIV64, R234). -/
  | udiv (rd : Reg) (rs : Reg)
  /-- `SDIV Rd,Rs`: `10101111ssssdddd` (R235). -/
  | sdiv (rd : Reg) (rs : Reg)
  /-- `UMUL Rd,Rs`: `10110000ssssdddd` (R232). -/
  | umul (rd : Reg) (rs : Reg)
  /-- `SMUL Rd,Rs`: `10110001ssssdddd` (R231). -/
  | smul (rd : Reg) (rs : Reg)
  /-- `MUL Rd,Rs`: `10110010ssssdddd` (R230). -/
  | mul (rd : Reg) (rs : Reg)
  /-- `SRA Rd,Rs`: `10110100ssssdddd` (R294; with the Extend latch SRAX, R298). -/
  | sraReg (rd : Reg) (rs : Reg)
  /-- `SRL Rd,Rs`: `10110101ssssdddd` (R295; with the Extend latch SRLX, R299). -/
  | srlReg (rd : Reg) (rs : Reg)
  /-- `SLL Rd,Rs`: `10110110ssssdddd` (R293; with the Extend latch SLLX, R297). -/
  | sllReg (rd : Reg) (rs : Reg)
  /-- `RL Rd,Rs`: `10110111ssssdddd` (R292). -/
  | rlReg (rd : Reg) (rs : Reg)
  /-- `SRA Rd,#uimm5`: `1011100iiiiidddd` (R294). -/
  | sraImm (rd : Reg) (imm : BitVec 5)
  /-- `SRL Rd,#uimm5`: `1011101iiiiidddd` (R295). -/
  | srlImm (rd : Reg) (imm : BitVec 5)
  /-- `SLL Rd,#uimm5`: `1011110iiiiidddd` (R293). -/
  | sllImm (rd : Reg) (imm : BitVec 5)
  /-- `RL Rd,#uimm5`: `1011111iiiiidddd` (R292). -/
  | rlImm (rd : Reg) (imm : BitVec 5)
  /-- `JP rel12`: `1100rrrrrrrrrrrr` (R422). -/
  | jpRel12 (rel : BitVec 12)
  /-- `JP rel24`: `11110000rrrrrrrr rrrrrrrrrrrrrrrr` (R422). -/
  | jpRel24 (rel : BitVec 24)
  /-- `JP (Rs)`: `111100100000ssss` (R421). -/
  | jpInd (rs : Reg)
  /-- `JP_cc cc,rel8`: `1110ccccrrrrrrrr` (R424). -/
  | jpCcRel8 (cc : CC) (rel : BitVec 8)
  /-- `JP_cc cc,rel16`: `111100100010cccc rrrrrrrrrrrrrrrr` (R424). -/
  | jpCcRel16 (cc : CC) (rel : BitVec 16)
  /-- `JPA imm32`: `1111001000110000 iiiiiiiiiiiiiiii iiiiiiiiiiiiiiii` (R423). -/
  | jpa (imm : BitVec 32)
  /-- `CALL rel12`: `1101rrrrrrrrrrrr` (R429). -/
  | callRel12 (rel : BitVec 12)
  /-- `CALL rel24`: `11110001rrrrrrrr rrrrrrrrrrrrrrrr` (R429). -/
  | callRel24 (rel : BitVec 24)
  /-- `CALL (Rs)`: `111100100001ssss` (R430). -/
  | callInd (rs : Reg)
  /-- `CALLA imm32`: `1111001000110001 iiiiiiiiiiiiiiii iiiiiiiiiiiiiiii` (R431). -/
  | calla (imm : BitVec 32)
  /-- `DJNZ Rd,urel4`: `11111101uuuudddd` (R438). -/
  | djnz (rd : Reg) (rel : BitVec 4)
  /-- `TRAP #vector8`: `11111110vvvvvvvv` (R440). -/
  | trap (vec : BitVec 8)
  /-- `ILL`: `1111111111111111` (R445). -/
  | ill
  /-- `RET`: `1111111111111100` (R435). -/
  | ret
  /-- `IRET`: `1111111111111101` (R436). -/
  | iret
  /-- `BRK`: `0000000000000000` (R410). -/
  | brk
  /-- `ATM`: `0000000000000100` (R400). -/
  | atm
  /-- `NOFLAGS`: `0000000000000101` (R401). -/
  | noflags
  /-- `EXTEND (prefix 0007H)`: `0000000000000111` (R402). -/
  | extend
  /-- `WDT`: `1111111111110111` (R409). -/
  | wdt
  /-- `STOP`: `1111111111111000` (R406). -/
  | stop
  /-- `HALT`: `1111111111111001` (R405). -/
  | halt
  /-- `EI`: `1111111111111010` (R404). -/
  | ei
  /-- `DI`: `1111111111111011` (R403). -/
  | di
  /-- `NOP`: `1111111111111110` (R407). -/
  | nop
  /-- `CPCZ Rd`: `1001dddd00000000` (R215; words of CPC Rd,#simm8 with simm8=00H, after 0007H). -/
  | cpczReg (rd : Reg)
deriving DecidableEq, Repr

/-- The eight binary operations (R139). -/
inductive Bop where
  | add | sub | and | or | xor | cp | tm | tcm
deriving DecidableEq, Repr

/-- The four unary operations (R139). -/
inductive Uop where
  | clr | cpz | inc | dec
deriving DecidableEq, Repr

/-- The data sizes (R91). -/
inductive Size where
  | byte | word | quad
deriving DecidableEq, Repr

/-- How a memory source is read into 32 bits (R93, R128): a whole quad, or a byte or word extended unsigned or signed. -/
inductive LoadKind where
  | q | ub | uw | sb | sw
deriving DecidableEq, Repr

/-- The memory operands of the binary operations: direct, or register-indirect with a 13-bit offset (R127, R131). -/
inductive Mem13 where
  | addr16 (addr : BitVec 16)
  | addr32 (addr : BitVec 32)
  | ind (r : Reg) (off : BitVec 13)
deriving DecidableEq, Repr

/-- The 31 operand forms of a binary operation (R204): register destination with an immediate, a register or a memory
source; memory destination with a register or an immediate source. -/
inductive BopForm where
  | imm32 (rd : Reg) (imm : BitVec 32)
  | uimm16 (rd : Reg) (imm : BitVec 16)
  | reg (rd rs : Reg)
  | load (k : LoadKind) (rd : Reg) (m : Mem13)
  | store (z : Size) (m : Mem13) (rs : Reg)
  | memImm32 (rd : Reg) (imm : BitVec 32)
  | memSimm16 (rd : Reg) (imm : BitVec 16)
  | memWImm16 (rd : Reg) (imm : BitVec 16)
  | memBImm8 (rd : Reg) (imm : BitVec 8)
deriving DecidableEq, Repr

/-- The memory operands of the unary operations (R210). -/
inductive UopMem where
  | addr16 (addr : BitVec 16)
  | addr32 (addr : BitVec 32)
  | mem (rd : Reg)
  | ind (rd : Reg) (off : BitVec 14)
deriving DecidableEq, Repr

/-- The memory sources of LD (R314 to R317). -/
inductive LoadMem where
  | pc (off : BitVec 14)
  | addr16 (addr : BitVec 16)
  | addr32 (addr : BitVec 32)
  | mem (rs : Reg)
  | postInc (rs : Reg)
  | ind (rs : Reg) (off : BitVec 14)
  | fp (off : BitVec 6)
deriving DecidableEq, Repr

/-- The memory destinations of LD with a register source (R321 to R324). -/
inductive StoreMem where
  | addr16 (addr : BitVec 16)
  | addr32 (addr : BitVec 32)
  | mem (rd : Reg)
  | preDec (rd : Reg)
  | postInc (rd : Reg)
  | ind (rd : Reg) (off : BitVec 14)
  | fp (off : BitVec 6)
deriving DecidableEq, Repr

/-- How the pointer of a store of an immediate moves (R325 to R327). -/
inductive PtrMode where
  | mem | preDec | postInc
deriving DecidableEq, Repr

/-- The immediates that LD stores through a pointer (R325 to R327). -/
inductive StoreVal where
  | imm32 (imm : BitVec 32)
  | simm16 (imm : BitVec 16)
  | wImm16 (imm : BitVec 16)
  | bImm8 (imm : BitVec 8)
deriving DecidableEq, Repr

/-- The four shifts and rotates (R292 to R295). -/
inductive ShiftOp where
  | sra | srl | sll | rl
deriving DecidableEq, Repr

/-- The instruction that a binary operation in one of its 31 operand forms is (R139, R204). -/
noncomputable def bopInstr : Bop → BopForm → Instr
  | .add, .imm32 rd imm => .addImm32 rd imm
  | .add, .uimm16 rd imm => .addUimm16 rd imm
  | .add, .reg rd rs => .addReg rd rs
  | .add, .load .q rd (.addr16 addr) => .addAddr16 rd addr
  | .add, .load .q rd (.addr32 addr) => .addAddr32 rd addr
  | .add, .load .q rd (.ind rs off) => .addInd rd rs off
  | .add, .load .sw rd (.addr16 addr) => .addSWAddr16 rd addr
  | .add, .load .sw rd (.addr32 addr) => .addSWAddr32 rd addr
  | .add, .load .sw rd (.ind rs off) => .addSWInd rd rs off
  | .add, .load .uw rd (.addr16 addr) => .addUWAddr16 rd addr
  | .add, .load .uw rd (.addr32 addr) => .addUWAddr32 rd addr
  | .add, .load .uw rd (.ind rs off) => .addUWInd rd rs off
  | .add, .load .sb rd (.addr16 addr) => .addSBAddr16 rd addr
  | .add, .load .sb rd (.addr32 addr) => .addSBAddr32 rd addr
  | .add, .load .sb rd (.ind rs off) => .addSBInd rd rs off
  | .add, .load .ub rd (.addr16 addr) => .addUBAddr16 rd addr
  | .add, .load .ub rd (.addr32 addr) => .addUBAddr32 rd addr
  | .add, .load .ub rd (.ind rs off) => .addUBInd rd rs off
  | .add, .store .quad (.addr16 addr) rs => .addToAddr16 addr rs
  | .add, .store .quad (.addr32 addr) rs => .addToAddr32 addr rs
  | .add, .store .quad (.ind rd off) rs => .addToInd rd off rs
  | .add, .store .word (.addr16 addr) rs => .addWToAddr16 addr rs
  | .add, .store .word (.addr32 addr) rs => .addWToAddr32 addr rs
  | .add, .store .word (.ind rd off) rs => .addWToInd rd off rs
  | .add, .store .byte (.addr16 addr) rs => .addBToAddr16 addr rs
  | .add, .store .byte (.addr32 addr) rs => .addBToAddr32 addr rs
  | .add, .store .byte (.ind rd off) rs => .addBToInd rd off rs
  | .add, .memImm32 rd imm => .addMemImm32 rd imm
  | .add, .memSimm16 rd imm => .addMemSimm16 rd imm
  | .add, .memWImm16 rd imm => .addWMemImm16 rd imm
  | .add, .memBImm8 rd imm => .addBMemImm8 rd imm
  | .sub, .imm32 rd imm => .subImm32 rd imm
  | .sub, .uimm16 rd imm => .subUimm16 rd imm
  | .sub, .reg rd rs => .subReg rd rs
  | .sub, .load .q rd (.addr16 addr) => .subAddr16 rd addr
  | .sub, .load .q rd (.addr32 addr) => .subAddr32 rd addr
  | .sub, .load .q rd (.ind rs off) => .subInd rd rs off
  | .sub, .load .sw rd (.addr16 addr) => .subSWAddr16 rd addr
  | .sub, .load .sw rd (.addr32 addr) => .subSWAddr32 rd addr
  | .sub, .load .sw rd (.ind rs off) => .subSWInd rd rs off
  | .sub, .load .uw rd (.addr16 addr) => .subUWAddr16 rd addr
  | .sub, .load .uw rd (.addr32 addr) => .subUWAddr32 rd addr
  | .sub, .load .uw rd (.ind rs off) => .subUWInd rd rs off
  | .sub, .load .sb rd (.addr16 addr) => .subSBAddr16 rd addr
  | .sub, .load .sb rd (.addr32 addr) => .subSBAddr32 rd addr
  | .sub, .load .sb rd (.ind rs off) => .subSBInd rd rs off
  | .sub, .load .ub rd (.addr16 addr) => .subUBAddr16 rd addr
  | .sub, .load .ub rd (.addr32 addr) => .subUBAddr32 rd addr
  | .sub, .load .ub rd (.ind rs off) => .subUBInd rd rs off
  | .sub, .store .quad (.addr16 addr) rs => .subToAddr16 addr rs
  | .sub, .store .quad (.addr32 addr) rs => .subToAddr32 addr rs
  | .sub, .store .quad (.ind rd off) rs => .subToInd rd off rs
  | .sub, .store .word (.addr16 addr) rs => .subWToAddr16 addr rs
  | .sub, .store .word (.addr32 addr) rs => .subWToAddr32 addr rs
  | .sub, .store .word (.ind rd off) rs => .subWToInd rd off rs
  | .sub, .store .byte (.addr16 addr) rs => .subBToAddr16 addr rs
  | .sub, .store .byte (.addr32 addr) rs => .subBToAddr32 addr rs
  | .sub, .store .byte (.ind rd off) rs => .subBToInd rd off rs
  | .sub, .memImm32 rd imm => .subMemImm32 rd imm
  | .sub, .memSimm16 rd imm => .subMemSimm16 rd imm
  | .sub, .memWImm16 rd imm => .subWMemImm16 rd imm
  | .sub, .memBImm8 rd imm => .subBMemImm8 rd imm
  | .and, .imm32 rd imm => .andImm32 rd imm
  | .and, .uimm16 rd imm => .andUimm16 rd imm
  | .and, .reg rd rs => .andReg rd rs
  | .and, .load .q rd (.addr16 addr) => .andAddr16 rd addr
  | .and, .load .q rd (.addr32 addr) => .andAddr32 rd addr
  | .and, .load .q rd (.ind rs off) => .andInd rd rs off
  | .and, .load .sw rd (.addr16 addr) => .andSWAddr16 rd addr
  | .and, .load .sw rd (.addr32 addr) => .andSWAddr32 rd addr
  | .and, .load .sw rd (.ind rs off) => .andSWInd rd rs off
  | .and, .load .uw rd (.addr16 addr) => .andUWAddr16 rd addr
  | .and, .load .uw rd (.addr32 addr) => .andUWAddr32 rd addr
  | .and, .load .uw rd (.ind rs off) => .andUWInd rd rs off
  | .and, .load .sb rd (.addr16 addr) => .andSBAddr16 rd addr
  | .and, .load .sb rd (.addr32 addr) => .andSBAddr32 rd addr
  | .and, .load .sb rd (.ind rs off) => .andSBInd rd rs off
  | .and, .load .ub rd (.addr16 addr) => .andUBAddr16 rd addr
  | .and, .load .ub rd (.addr32 addr) => .andUBAddr32 rd addr
  | .and, .load .ub rd (.ind rs off) => .andUBInd rd rs off
  | .and, .store .quad (.addr16 addr) rs => .andToAddr16 addr rs
  | .and, .store .quad (.addr32 addr) rs => .andToAddr32 addr rs
  | .and, .store .quad (.ind rd off) rs => .andToInd rd off rs
  | .and, .store .word (.addr16 addr) rs => .andWToAddr16 addr rs
  | .and, .store .word (.addr32 addr) rs => .andWToAddr32 addr rs
  | .and, .store .word (.ind rd off) rs => .andWToInd rd off rs
  | .and, .store .byte (.addr16 addr) rs => .andBToAddr16 addr rs
  | .and, .store .byte (.addr32 addr) rs => .andBToAddr32 addr rs
  | .and, .store .byte (.ind rd off) rs => .andBToInd rd off rs
  | .and, .memImm32 rd imm => .andMemImm32 rd imm
  | .and, .memSimm16 rd imm => .andMemSimm16 rd imm
  | .and, .memWImm16 rd imm => .andWMemImm16 rd imm
  | .and, .memBImm8 rd imm => .andBMemImm8 rd imm
  | .or, .imm32 rd imm => .orImm32 rd imm
  | .or, .uimm16 rd imm => .orUimm16 rd imm
  | .or, .reg rd rs => .orReg rd rs
  | .or, .load .q rd (.addr16 addr) => .orAddr16 rd addr
  | .or, .load .q rd (.addr32 addr) => .orAddr32 rd addr
  | .or, .load .q rd (.ind rs off) => .orInd rd rs off
  | .or, .load .sw rd (.addr16 addr) => .orSWAddr16 rd addr
  | .or, .load .sw rd (.addr32 addr) => .orSWAddr32 rd addr
  | .or, .load .sw rd (.ind rs off) => .orSWInd rd rs off
  | .or, .load .uw rd (.addr16 addr) => .orUWAddr16 rd addr
  | .or, .load .uw rd (.addr32 addr) => .orUWAddr32 rd addr
  | .or, .load .uw rd (.ind rs off) => .orUWInd rd rs off
  | .or, .load .sb rd (.addr16 addr) => .orSBAddr16 rd addr
  | .or, .load .sb rd (.addr32 addr) => .orSBAddr32 rd addr
  | .or, .load .sb rd (.ind rs off) => .orSBInd rd rs off
  | .or, .load .ub rd (.addr16 addr) => .orUBAddr16 rd addr
  | .or, .load .ub rd (.addr32 addr) => .orUBAddr32 rd addr
  | .or, .load .ub rd (.ind rs off) => .orUBInd rd rs off
  | .or, .store .quad (.addr16 addr) rs => .orToAddr16 addr rs
  | .or, .store .quad (.addr32 addr) rs => .orToAddr32 addr rs
  | .or, .store .quad (.ind rd off) rs => .orToInd rd off rs
  | .or, .store .word (.addr16 addr) rs => .orWToAddr16 addr rs
  | .or, .store .word (.addr32 addr) rs => .orWToAddr32 addr rs
  | .or, .store .word (.ind rd off) rs => .orWToInd rd off rs
  | .or, .store .byte (.addr16 addr) rs => .orBToAddr16 addr rs
  | .or, .store .byte (.addr32 addr) rs => .orBToAddr32 addr rs
  | .or, .store .byte (.ind rd off) rs => .orBToInd rd off rs
  | .or, .memImm32 rd imm => .orMemImm32 rd imm
  | .or, .memSimm16 rd imm => .orMemSimm16 rd imm
  | .or, .memWImm16 rd imm => .orWMemImm16 rd imm
  | .or, .memBImm8 rd imm => .orBMemImm8 rd imm
  | .xor, .imm32 rd imm => .xorImm32 rd imm
  | .xor, .uimm16 rd imm => .xorUimm16 rd imm
  | .xor, .reg rd rs => .xorReg rd rs
  | .xor, .load .q rd (.addr16 addr) => .xorAddr16 rd addr
  | .xor, .load .q rd (.addr32 addr) => .xorAddr32 rd addr
  | .xor, .load .q rd (.ind rs off) => .xorInd rd rs off
  | .xor, .load .sw rd (.addr16 addr) => .xorSWAddr16 rd addr
  | .xor, .load .sw rd (.addr32 addr) => .xorSWAddr32 rd addr
  | .xor, .load .sw rd (.ind rs off) => .xorSWInd rd rs off
  | .xor, .load .uw rd (.addr16 addr) => .xorUWAddr16 rd addr
  | .xor, .load .uw rd (.addr32 addr) => .xorUWAddr32 rd addr
  | .xor, .load .uw rd (.ind rs off) => .xorUWInd rd rs off
  | .xor, .load .sb rd (.addr16 addr) => .xorSBAddr16 rd addr
  | .xor, .load .sb rd (.addr32 addr) => .xorSBAddr32 rd addr
  | .xor, .load .sb rd (.ind rs off) => .xorSBInd rd rs off
  | .xor, .load .ub rd (.addr16 addr) => .xorUBAddr16 rd addr
  | .xor, .load .ub rd (.addr32 addr) => .xorUBAddr32 rd addr
  | .xor, .load .ub rd (.ind rs off) => .xorUBInd rd rs off
  | .xor, .store .quad (.addr16 addr) rs => .xorToAddr16 addr rs
  | .xor, .store .quad (.addr32 addr) rs => .xorToAddr32 addr rs
  | .xor, .store .quad (.ind rd off) rs => .xorToInd rd off rs
  | .xor, .store .word (.addr16 addr) rs => .xorWToAddr16 addr rs
  | .xor, .store .word (.addr32 addr) rs => .xorWToAddr32 addr rs
  | .xor, .store .word (.ind rd off) rs => .xorWToInd rd off rs
  | .xor, .store .byte (.addr16 addr) rs => .xorBToAddr16 addr rs
  | .xor, .store .byte (.addr32 addr) rs => .xorBToAddr32 addr rs
  | .xor, .store .byte (.ind rd off) rs => .xorBToInd rd off rs
  | .xor, .memImm32 rd imm => .xorMemImm32 rd imm
  | .xor, .memSimm16 rd imm => .xorMemSimm16 rd imm
  | .xor, .memWImm16 rd imm => .xorWMemImm16 rd imm
  | .xor, .memBImm8 rd imm => .xorBMemImm8 rd imm
  | .cp, .imm32 rd imm => .cpImm32 rd imm
  | .cp, .uimm16 rd imm => .cpUimm16 rd imm
  | .cp, .reg rd rs => .cpReg rd rs
  | .cp, .load .q rd (.addr16 addr) => .cpAddr16 rd addr
  | .cp, .load .q rd (.addr32 addr) => .cpAddr32 rd addr
  | .cp, .load .q rd (.ind rs off) => .cpInd rd rs off
  | .cp, .load .sw rd (.addr16 addr) => .cpSWAddr16 rd addr
  | .cp, .load .sw rd (.addr32 addr) => .cpSWAddr32 rd addr
  | .cp, .load .sw rd (.ind rs off) => .cpSWInd rd rs off
  | .cp, .load .uw rd (.addr16 addr) => .cpUWAddr16 rd addr
  | .cp, .load .uw rd (.addr32 addr) => .cpUWAddr32 rd addr
  | .cp, .load .uw rd (.ind rs off) => .cpUWInd rd rs off
  | .cp, .load .sb rd (.addr16 addr) => .cpSBAddr16 rd addr
  | .cp, .load .sb rd (.addr32 addr) => .cpSBAddr32 rd addr
  | .cp, .load .sb rd (.ind rs off) => .cpSBInd rd rs off
  | .cp, .load .ub rd (.addr16 addr) => .cpUBAddr16 rd addr
  | .cp, .load .ub rd (.addr32 addr) => .cpUBAddr32 rd addr
  | .cp, .load .ub rd (.ind rs off) => .cpUBInd rd rs off
  | .cp, .store .quad (.addr16 addr) rs => .cpToAddr16 addr rs
  | .cp, .store .quad (.addr32 addr) rs => .cpToAddr32 addr rs
  | .cp, .store .quad (.ind rd off) rs => .cpToInd rd off rs
  | .cp, .store .word (.addr16 addr) rs => .cpWToAddr16 addr rs
  | .cp, .store .word (.addr32 addr) rs => .cpWToAddr32 addr rs
  | .cp, .store .word (.ind rd off) rs => .cpWToInd rd off rs
  | .cp, .store .byte (.addr16 addr) rs => .cpBToAddr16 addr rs
  | .cp, .store .byte (.addr32 addr) rs => .cpBToAddr32 addr rs
  | .cp, .store .byte (.ind rd off) rs => .cpBToInd rd off rs
  | .cp, .memImm32 rd imm => .cpMemImm32 rd imm
  | .cp, .memSimm16 rd imm => .cpMemSimm16 rd imm
  | .cp, .memWImm16 rd imm => .cpWMemImm16 rd imm
  | .cp, .memBImm8 rd imm => .cpBMemImm8 rd imm
  | .tm, .imm32 rd imm => .tmImm32 rd imm
  | .tm, .uimm16 rd imm => .tmUimm16 rd imm
  | .tm, .reg rd rs => .tmReg rd rs
  | .tm, .load .q rd (.addr16 addr) => .tmAddr16 rd addr
  | .tm, .load .q rd (.addr32 addr) => .tmAddr32 rd addr
  | .tm, .load .q rd (.ind rs off) => .tmInd rd rs off
  | .tm, .load .sw rd (.addr16 addr) => .tmSWAddr16 rd addr
  | .tm, .load .sw rd (.addr32 addr) => .tmSWAddr32 rd addr
  | .tm, .load .sw rd (.ind rs off) => .tmSWInd rd rs off
  | .tm, .load .uw rd (.addr16 addr) => .tmUWAddr16 rd addr
  | .tm, .load .uw rd (.addr32 addr) => .tmUWAddr32 rd addr
  | .tm, .load .uw rd (.ind rs off) => .tmUWInd rd rs off
  | .tm, .load .sb rd (.addr16 addr) => .tmSBAddr16 rd addr
  | .tm, .load .sb rd (.addr32 addr) => .tmSBAddr32 rd addr
  | .tm, .load .sb rd (.ind rs off) => .tmSBInd rd rs off
  | .tm, .load .ub rd (.addr16 addr) => .tmUBAddr16 rd addr
  | .tm, .load .ub rd (.addr32 addr) => .tmUBAddr32 rd addr
  | .tm, .load .ub rd (.ind rs off) => .tmUBInd rd rs off
  | .tm, .store .quad (.addr16 addr) rs => .tmToAddr16 addr rs
  | .tm, .store .quad (.addr32 addr) rs => .tmToAddr32 addr rs
  | .tm, .store .quad (.ind rd off) rs => .tmToInd rd off rs
  | .tm, .store .word (.addr16 addr) rs => .tmWToAddr16 addr rs
  | .tm, .store .word (.addr32 addr) rs => .tmWToAddr32 addr rs
  | .tm, .store .word (.ind rd off) rs => .tmWToInd rd off rs
  | .tm, .store .byte (.addr16 addr) rs => .tmBToAddr16 addr rs
  | .tm, .store .byte (.addr32 addr) rs => .tmBToAddr32 addr rs
  | .tm, .store .byte (.ind rd off) rs => .tmBToInd rd off rs
  | .tm, .memImm32 rd imm => .tmMemImm32 rd imm
  | .tm, .memSimm16 rd imm => .tmMemSimm16 rd imm
  | .tm, .memWImm16 rd imm => .tmWMemImm16 rd imm
  | .tm, .memBImm8 rd imm => .tmBMemImm8 rd imm
  | .tcm, .imm32 rd imm => .tcmImm32 rd imm
  | .tcm, .uimm16 rd imm => .tcmUimm16 rd imm
  | .tcm, .reg rd rs => .tcmReg rd rs
  | .tcm, .load .q rd (.addr16 addr) => .tcmAddr16 rd addr
  | .tcm, .load .q rd (.addr32 addr) => .tcmAddr32 rd addr
  | .tcm, .load .q rd (.ind rs off) => .tcmInd rd rs off
  | .tcm, .load .sw rd (.addr16 addr) => .tcmSWAddr16 rd addr
  | .tcm, .load .sw rd (.addr32 addr) => .tcmSWAddr32 rd addr
  | .tcm, .load .sw rd (.ind rs off) => .tcmSWInd rd rs off
  | .tcm, .load .uw rd (.addr16 addr) => .tcmUWAddr16 rd addr
  | .tcm, .load .uw rd (.addr32 addr) => .tcmUWAddr32 rd addr
  | .tcm, .load .uw rd (.ind rs off) => .tcmUWInd rd rs off
  | .tcm, .load .sb rd (.addr16 addr) => .tcmSBAddr16 rd addr
  | .tcm, .load .sb rd (.addr32 addr) => .tcmSBAddr32 rd addr
  | .tcm, .load .sb rd (.ind rs off) => .tcmSBInd rd rs off
  | .tcm, .load .ub rd (.addr16 addr) => .tcmUBAddr16 rd addr
  | .tcm, .load .ub rd (.addr32 addr) => .tcmUBAddr32 rd addr
  | .tcm, .load .ub rd (.ind rs off) => .tcmUBInd rd rs off
  | .tcm, .store .quad (.addr16 addr) rs => .tcmToAddr16 addr rs
  | .tcm, .store .quad (.addr32 addr) rs => .tcmToAddr32 addr rs
  | .tcm, .store .quad (.ind rd off) rs => .tcmToInd rd off rs
  | .tcm, .store .word (.addr16 addr) rs => .tcmWToAddr16 addr rs
  | .tcm, .store .word (.addr32 addr) rs => .tcmWToAddr32 addr rs
  | .tcm, .store .word (.ind rd off) rs => .tcmWToInd rd off rs
  | .tcm, .store .byte (.addr16 addr) rs => .tcmBToAddr16 addr rs
  | .tcm, .store .byte (.addr32 addr) rs => .tcmBToAddr32 addr rs
  | .tcm, .store .byte (.ind rd off) rs => .tcmBToInd rd off rs
  | .tcm, .memImm32 rd imm => .tcmMemImm32 rd imm
  | .tcm, .memSimm16 rd imm => .tcmMemSimm16 rd imm
  | .tcm, .memWImm16 rd imm => .tcmWMemImm16 rd imm
  | .tcm, .memBImm8 rd imm => .tcmBMemImm8 rd imm

/-- The instruction that a unary operation on a memory operand of one size is (R139, R210). -/
noncomputable def uopInstr : Uop → Size → UopMem → Instr
  | .clr, .quad, .addr16 addr => .clrAddr16 addr
  | .clr, .quad, .addr32 addr => .clrAddr32 addr
  | .clr, .quad, .mem rd => .clrMem rd
  | .clr, .quad, .ind rd off => .clrInd rd off
  | .clr, .word, .addr16 addr => .clrWAddr16 addr
  | .clr, .word, .addr32 addr => .clrWAddr32 addr
  | .clr, .word, .mem rd => .clrWMem rd
  | .clr, .word, .ind rd off => .clrWInd rd off
  | .clr, .byte, .addr16 addr => .clrBAddr16 addr
  | .clr, .byte, .addr32 addr => .clrBAddr32 addr
  | .clr, .byte, .mem rd => .clrBMem rd
  | .clr, .byte, .ind rd off => .clrBInd rd off
  | .cpz, .quad, .addr16 addr => .cpzAddr16 addr
  | .cpz, .quad, .addr32 addr => .cpzAddr32 addr
  | .cpz, .quad, .mem rd => .cpzMem rd
  | .cpz, .quad, .ind rd off => .cpzInd rd off
  | .cpz, .word, .addr16 addr => .cpzWAddr16 addr
  | .cpz, .word, .addr32 addr => .cpzWAddr32 addr
  | .cpz, .word, .mem rd => .cpzWMem rd
  | .cpz, .word, .ind rd off => .cpzWInd rd off
  | .cpz, .byte, .addr16 addr => .cpzBAddr16 addr
  | .cpz, .byte, .addr32 addr => .cpzBAddr32 addr
  | .cpz, .byte, .mem rd => .cpzBMem rd
  | .cpz, .byte, .ind rd off => .cpzBInd rd off
  | .inc, .quad, .addr16 addr => .incAddr16 addr
  | .inc, .quad, .addr32 addr => .incAddr32 addr
  | .inc, .quad, .mem rd => .incMem rd
  | .inc, .quad, .ind rd off => .incInd rd off
  | .inc, .word, .addr16 addr => .incWAddr16 addr
  | .inc, .word, .addr32 addr => .incWAddr32 addr
  | .inc, .word, .mem rd => .incWMem rd
  | .inc, .word, .ind rd off => .incWInd rd off
  | .inc, .byte, .addr16 addr => .incBAddr16 addr
  | .inc, .byte, .addr32 addr => .incBAddr32 addr
  | .inc, .byte, .mem rd => .incBMem rd
  | .inc, .byte, .ind rd off => .incBInd rd off
  | .dec, .quad, .addr16 addr => .decAddr16 addr
  | .dec, .quad, .addr32 addr => .decAddr32 addr
  | .dec, .quad, .mem rd => .decMem rd
  | .dec, .quad, .ind rd off => .decInd rd off
  | .dec, .word, .addr16 addr => .decWAddr16 addr
  | .dec, .word, .addr32 addr => .decWAddr32 addr
  | .dec, .word, .mem rd => .decWMem rd
  | .dec, .word, .ind rd off => .decWInd rd off
  | .dec, .byte, .addr16 addr => .decBAddr16 addr
  | .dec, .byte, .addr32 addr => .decBAddr32 addr
  | .dec, .byte, .mem rd => .decBMem rd
  | .dec, .byte, .ind rd off => .decBInd rd off

/-- The instruction that a load of one kind from one memory source is (R314 to R317). -/
noncomputable def loadInstr : LoadKind → Reg → LoadMem → Instr
  | .q, rd, .pc off => .ldPc rd off
  | .q, rd, .addr16 addr => .ldAddr16 rd addr
  | .q, rd, .addr32 addr => .ldAddr32 rd addr
  | .q, rd, .mem rs => .ldMem rd rs
  | .q, rd, .postInc rs => .ldPostInc rd rs
  | .q, rd, .ind rs off => .ldInd rd rs off
  | .q, rd, .fp off => .ldFp rd off
  | .ub, rd, .pc off => .ldUBPc rd off
  | .ub, rd, .addr16 addr => .ldUBAddr16 rd addr
  | .ub, rd, .addr32 addr => .ldUBAddr32 rd addr
  | .ub, rd, .mem rs => .ldUBMem rd rs
  | .ub, rd, .postInc rs => .ldUBPostInc rd rs
  | .ub, rd, .ind rs off => .ldUBInd rd rs off
  | .ub, rd, .fp off => .ldUBFp rd off
  | .uw, rd, .pc off => .ldUWPc rd off
  | .uw, rd, .addr16 addr => .ldUWAddr16 rd addr
  | .uw, rd, .addr32 addr => .ldUWAddr32 rd addr
  | .uw, rd, .mem rs => .ldUWMem rd rs
  | .uw, rd, .postInc rs => .ldUWPostInc rd rs
  | .uw, rd, .ind rs off => .ldUWInd rd rs off
  | .uw, rd, .fp off => .ldUWFp rd off
  | .sb, rd, .pc off => .ldSBPc rd off
  | .sb, rd, .addr16 addr => .ldSBAddr16 rd addr
  | .sb, rd, .addr32 addr => .ldSBAddr32 rd addr
  | .sb, rd, .mem rs => .ldSBMem rd rs
  | .sb, rd, .postInc rs => .ldSBPostInc rd rs
  | .sb, rd, .ind rs off => .ldSBInd rd rs off
  | .sb, rd, .fp off => .ldSBFp rd off
  | .sw, rd, .pc off => .ldSWPc rd off
  | .sw, rd, .addr16 addr => .ldSWAddr16 rd addr
  | .sw, rd, .addr32 addr => .ldSWAddr32 rd addr
  | .sw, rd, .mem rs => .ldSWMem rd rs
  | .sw, rd, .postInc rs => .ldSWPostInc rd rs
  | .sw, rd, .ind rs off => .ldSWInd rd rs off
  | .sw, rd, .fp off => .ldSWFp rd off

/-- The instruction that a store of one size to one memory destination is (R321 to R324). -/
noncomputable def storeInstr : Size → StoreMem → Reg → Instr
  | .quad, .addr16 addr, rs => .ldToAddr16 addr rs
  | .quad, .addr32 addr, rs => .ldToAddr32 addr rs
  | .quad, .mem rd, rs => .ldToMem rd rs
  | .quad, .preDec rd, rs => .ldToPre rd rs
  | .quad, .postInc rd, rs => .ldToPost rd rs
  | .quad, .ind rd off, rs => .ldToInd rd off rs
  | .quad, .fp off, rs => .ldToFp off rs
  | .word, .addr16 addr, rs => .ldWToAddr16 addr rs
  | .word, .addr32 addr, rs => .ldWToAddr32 addr rs
  | .word, .mem rd, rs => .ldWToMem rd rs
  | .word, .preDec rd, rs => .ldWToPre rd rs
  | .word, .postInc rd, rs => .ldWToPost rd rs
  | .word, .ind rd off, rs => .ldWToInd rd off rs
  | .word, .fp off, rs => .ldWToFp off rs
  | .byte, .addr16 addr, rs => .ldBToAddr16 addr rs
  | .byte, .addr32 addr, rs => .ldBToAddr32 addr rs
  | .byte, .mem rd, rs => .ldBToMem rd rs
  | .byte, .preDec rd, rs => .ldBToPre rd rs
  | .byte, .postInc rd, rs => .ldBToPost rd rs
  | .byte, .ind rd off, rs => .ldBToInd rd off rs
  | .byte, .fp off, rs => .ldBToFp off rs

/-- The instruction that a store of an immediate through a pointer is (R325 to R327). -/
noncomputable def storeImmInstr : PtrMode → Reg → StoreVal → Instr
  | .mem, rd, .imm32 imm => .ldMemImm32 rd imm
  | .preDec, rd, .imm32 imm => .ldPreImm32 rd imm
  | .postInc, rd, .imm32 imm => .ldPostImm32 rd imm
  | .mem, rd, .simm16 imm => .ldMemSimm16 rd imm
  | .preDec, rd, .simm16 imm => .ldPreSimm16 rd imm
  | .postInc, rd, .simm16 imm => .ldPostSimm16 rd imm
  | .mem, rd, .wImm16 imm => .ldWMemImm16 rd imm
  | .preDec, rd, .wImm16 imm => .ldWPreImm16 rd imm
  | .postInc, rd, .wImm16 imm => .ldWPostImm16 rd imm
  | .mem, rd, .bImm8 imm => .ldBMemImm8 rd imm
  | .preDec, rd, .bImm8 imm => .ldBPreImm8 rd imm
  | .postInc, rd, .bImm8 imm => .ldBPostImm8 rd imm

/-- The POP instruction of one kind (R364). -/
noncomputable def popInstr : LoadKind → Reg → Instr
  | .q, rd => .pop rd
  | .ub, rd => .popUB rd
  | .uw, rd => .popUW rd
  | .sb, rd => .popSB rd
  | .sw, rd => .popSW rd

/-- The EXT instruction of one kind (R345); `q` has none. -/
noncomputable def extInstr : LoadKind → Reg → Reg → Option Instr
  | .q, _, _ => none
  | .ub, rd, rs => some (.extUB rd rs)
  | .uw, rd, rs => some (.extUW rd rs)
  | .sb, rd, rs => some (.extSB rd rs)
  | .sw, rd, rs => some (.extSW rd rs)

/-- A shift or rotate by a register count (R291). -/
noncomputable def shiftRegInstr : ShiftOp → Reg → Reg → Instr
  | .sra, rd, rs => .sraReg rd rs
  | .srl, rd, rs => .srlReg rd rs
  | .sll, rd, rs => .sllReg rd rs
  | .rl, rd, rs => .rlReg rd rs

/-- A shift or rotate by an immediate count (R291). -/
noncomputable def shiftImmInstr : ShiftOp → Reg → BitVec 5 → Instr
  | .sra, rd, imm => .sraImm rd imm
  | .srl, rd, imm => .srlImm rd imm
  | .sll, rd, imm => .sllImm rd imm
  | .rl, rd, imm => .rlImm rd imm

end Sys2Proof
end

