-- ==== Sys2Proof/WellFormed.lean ====
section
/-! DEFINITION. Well-formed instructions. Every operand field has the width its encoding gives it by its type, so one
check remains: a word has one meaning, and the words of a postincrement load through R15 are POP (R315, R364, R189). -/

namespace Sys2Proof

/-- The check on a postincrement load: its pointer is not R15 (R364). -/
def pointerNotSp (rs : Reg) : Bool := rs != spReg

/-- An instruction is well formed when no other constructor stands for its words: the postincrement loads through R15
are written with the POP constructors (R315, R364). -/
def wellFormed : Instr → Bool
  | .ldPostInc _ rs => pointerNotSp rs
  | .ldUBPostInc _ rs => pointerNotSp rs
  | .ldUWPostInc _ rs => pointerNotSp rs
  | .ldSBPostInc _ rs => pointerNotSp rs
  | .ldSWPostInc _ rs => pointerNotSp rs
  | _ => true

end Sys2Proof
end

