-- ==== Sys2Proof/Decode.lean ====
section
/-! DEFINITION. The decoder (R122, R140 to R177, R185) and, after it, the encoder, both written from the spec's encodings.
The decoder is total: it answers an instruction, or why the words are none. -/

namespace Sys2Proof

/-! ### Fields of a word -/

/-- Bits [15:12]. -/
def nib3 (w : Word) : BitVec 4 := w.extractLsb' 12 4
/-- Bits [11:8]. -/
def nib2 (w : Word) : BitVec 4 := w.extractLsb' 8 4
/-- Bits [7:4]: Rs of a two-register word (R126). -/
def nib1 (w : Word) : BitVec 4 := w.extractLsb' 4 4
/-- Bits [3:0]: Rd of a two-register word (R126). -/
def nib0 (w : Word) : BitVec 4 := w.extractLsb' 0 4
/-- Bits [7:0]. -/
def low8 (w : Word) : BitVec 8 := w.extractLsb' 0 8
/-- Bits [11:0]. -/
def low12 (w : Word) : BitVec 12 := w.extractLsb' 0 12
/-- Bits [13:0]: `soff14` of word 1 (R130). -/
def low14 (w : Word) : BitVec 14 := w.extractLsb' 0 14
/-- Bits [12:0]: `soff13` of word 1 (R131). -/
def low13 (w : Word) : BitVec 13 := w.extractLsb' 0 13
/-- Bits [9:4]: `soff6` (R133). -/
def mid6 (w : Word) : BitVec 6 := w.extractLsb' 4 6
/-- Bits [8:4]: `uimm5` (R125). -/
def mid5 (w : Word) : BitVec 5 := w.extractLsb' 4 5
/-- Bits [15:14]: the selector of a word 1 with `soff14`. -/
def top2 (w : Word) : BitVec 2 := w.extractLsb' 14 2
/-- Bits [15:13]: the selector of a word 1 with `soff13` (R166). -/
def top3 (w : Word) : BitVec 3 := w.extractLsb' 13 3

/-- The two bytes of a word, the most significant first (R121). -/
def wordBytes (w : Word) : List Byte := [w.extractLsb' 8 8, w.extractLsb' 0 8]

/-- The two words of a 32-bit operand, the high half first (R121). -/
def quadWords (v : BitVec 32) : List Word := [v.extractLsb' 16 16, v.extractLsb' 0 16]

/-- The binary operation of its number `ooo` (R139). -/
def Bop.ofBits (b : BitVec 3) : Bop :=
  match b.toNat with
  | 0 => .add
  | 1 => .sub
  | 2 => .and
  | 3 => .or
  | 4 => .xor
  | 5 => .cp
  | 6 => .tm
  | _ => .tcm

/-- The unary operation of its number `oo` (R139). -/
def Uop.ofBits (b : BitVec 2) : Uop :=
  match b.toNat with
  | 0 => .clr
  | 1 => .cpz
  | 2 => .inc
  | _ => .dec

/-- The kind of a memory source where the selector is `bz` (R128). -/
def kindBZ (b : BitVec 2) : LoadKind :=
  match b.toNat with
  | 0 => .ub
  | 1 => .sb
  | 2 => .uw
  | _ => .sw

/-- The kind of a memory source where the selector is `zb` (R128). -/
def kindZB (b : BitVec 2) : LoadKind :=
  match b.toNat with
  | 0 => .ub
  | 1 => .uw
  | 2 => .sb
  | _ => .sw

/-! ### Length -/

/-- The length in words of the instruction that begins with this word (R122); 1 for an unimplemented word. -/
def instrWords (w0 : Word) : Nat :=
  match (nib3 w0).toNat with
  | 0x0 =>
    match (nib2 w0).toNat with
    | 0x0 => if nib1 w0 = 0x2#4 ∨ nib1 w0 = 0x3#4 then 2 else 1
    | 0x3 => if (nib1 w0).msb then 3 else 2
    | 0x9 => if (nib1 w0).toNat < 4 then 1 else if (nib1 w0).toNat < 0xD then 2 else 3
    | _ => 1
  | 0x4 =>
    match (nib2 w0).toNat with
    | 0x5 => if (nib1 w0).toNat < 2 then 2 else if (nib1 w0).toNat = 2 then 3 else 1
    | 0x8 => 2
    | 0x9 => 2
    | 0xA => 2
    | 0xB => 2
    | _ => 1
  | 0x7 => if (nib2 w0).msb then 2 else if (nib1 w0).msb then 3 else 2
  | 0xA =>
    match (nib2 w0).toNat with
    | 0xA => if (nib1 w0).msb then 3 else 2
    | 0xB => if (nib1 w0).msb then 3 else 2
    | 0xD => if nib1 w0 = 0xB#4 then 3 else if nib1 w0 = 0x8#4 then 1 else 2
    | _ => 1
  | 0xF =>
    match (nib2 w0).toNat with
    | 0x0 => 2
    | 0x1 => 2
    | 0x2 =>
      if nib1 w0 = 0x2#4 then 2
      else if nib1 w0 = 0x3#4 ∧ (nib0 w0).toNat < 2 then 3 else 1
    | _ => 1
  | _ => 1

/-! ### The opcode map: the instruction of words 0, 1 and 2, none where word 0 is unimplemented (R177) -/

/-- 0000H to 00FFH (R140 to R143). -/
noncomputable def decode00 (w0 w1 : Word) : Option Instr :=
  match (nib1 w0).toNat with
  | 0x0 =>
    match (nib0 w0).toNat with
    | 0x0 => some .brk
    | 0x1 => some .unlink
    | 0x2 => some .pushf
    | 0x3 => some .popf
    | 0x4 => some .atm
    | 0x5 => some .noflags
    | 0x7 => some .extend
    | _ => none
  | 0x2 =>
    if w1.msb then some (.leaPc (nib0 w0) (low14 w1))
    else some (loadInstr .q (nib0 w0) (.pc (low14 w1)))
  | 0x3 => some (loadInstr (kindZB (top2 w1)) (nib0 w0) (.pc (low14 w1)))
  | _ => none

/-- 0300H to 03FFH: loads and stores at a direct address (R146, R147). -/
noncomputable def decode03 (w0 w1 w2 : Word) : Option Instr :=
  let load (k : LoadKind) : Option Instr :=
    some (loadInstr k (nib0 w0) (if (nib1 w0).msb then .addr32 (w1 ++ w2) else .addr16 w1))
  let store (z : Size) : Option Instr :=
    some (storeInstr z (if (nib1 w0).msb then .addr32 (w1 ++ w2) else .addr16 w1) (nib0 w0))
  match ((nib1 w0).extractLsb' 0 3).toNat with
  | 4 => load .q
  | 5 => store .byte
  | 6 => store .word
  | 7 => store .quad
  | _ => load (kindBZ ((nib1 w0).extractLsb' 0 2))

/-- 0900H to 09FFH: stores of an immediate through a pointer (R150). -/
noncomputable def decode09 (w0 w1 w2 : Word) : Option Instr :=
  let d := nib0 w0
  match (nib1 w0).toNat with
  | 0x4 => some (storeImmInstr .preDec d (.bImm8 (low8 w1)))
  | 0x5 => some (storeImmInstr .postInc d (.bImm8 (low8 w1)))
  | 0x6 => some (storeImmInstr .mem d (.wImm16 w1))
  | 0x7 => some (storeImmInstr .mem d (.simm16 w1))
  | 0x8 => some (storeImmInstr .preDec d (.wImm16 w1))
  | 0x9 => some (storeImmInstr .preDec d (.simm16 w1))
  | 0xA => some (storeImmInstr .postInc d (.wImm16 w1))
  | 0xB => some (storeImmInstr .postInc d (.simm16 w1))
  | 0xC => some (storeImmInstr .mem d (.bImm8 (low8 w1)))
  | 0xD => some (storeImmInstr .mem d (.imm32 (w1 ++ w2)))
  | 0xE => some (storeImmInstr .preDec d (.imm32 (w1 ++ w2)))
  | 0xF => some (storeImmInstr .postInc d (.imm32 (w1 ++ w2)))
  | _ => none

/-- 0000H to 0FFFH (R140 to R152). -/
noncomputable def decode0 (w0 w1 w2 : Word) : Option Instr :=
  match (nib2 w0).toNat with
  | 0x0 => decode00 w0 w1
  | 0x1 => some (.ldCc (nib1 w0) (nib0 w0))
  | 0x3 => decode03 w0 w1 w2
  | 0x4 => some (.pushmLo (low8 w0))
  | 0x5 => some (.pushmHi (low8 w0))
  | 0x6 => some (.popmLo (low8 w0))
  | 0x7 => some (.popmHi (low8 w0))
  | 0x8 => some (.link (low8 w0))
  | 0x9 => decode09 w0 w1 w2
  | 0xA => some (.pushBImm8 (low8 w0))
  | 0xB => some (storeInstr .quad (.mem (nib0 w0)) (nib1 w0))
  | 0xC => some (.pushWSimm8 (low8 w0))
  | 0xD => some (.pushSimm8 (low8 w0))
  | 0xE => some (storeInstr .byte (.mem (nib0 w0)) (nib1 w0))
  | 0xF => some (storeInstr .word (.mem (nib0 w0)) (nib1 w0))
  | _ => none

/-- A postincrement load, which is POP when the pointer is R15 (R315, R364). -/
noncomputable def decodePostInc (k : LoadKind) (w0 : Word) : Option Instr :=
  if nib1 w0 = spReg then some (popInstr k (nib0 w0)) else some (loadInstr k (nib0 w0) (.postInc (nib1 w0)))

/-- 1000H to 1FFFH: loads and stores through a pointer (R153, R154). -/
noncomputable def decode1 (w0 : Word) : Option Instr :=
  let s := nib1 w0
  let d := nib0 w0
  match (nib2 w0).toNat with
  | 0x0 => some (storeInstr .quad (.preDec d) s)
  | 0x1 => some (storeInstr .quad (.postInc d) s)
  | 0x2 => some (loadInstr .q d (.mem s))
  | 0x3 => decodePostInc .q w0
  | 0x4 => some (storeInstr .byte (.preDec d) s)
  | 0x5 => some (storeInstr .byte (.postInc d) s)
  | 0x6 => some (storeInstr .word (.preDec d) s)
  | 0x7 => some (storeInstr .word (.postInc d) s)
  | 0x8 => some (loadInstr .ub d (.mem s))
  | 0x9 => decodePostInc .ub w0
  | 0xA => some (loadInstr .uw d (.mem s))
  | 0xB => decodePostInc .uw w0
  | 0xC => some (loadInstr .sb d (.mem s))
  | 0xD => decodePostInc .sb w0
  | 0xE => some (loadInstr .sw d (.mem s))
  | _ => decodePostInc .sw w0

/-- 4000H to 4FFFH (R157 to R162). -/
noncomputable def decode4 (w0 w1 w2 : Word) : Option Instr :=
  let s := nib1 w0
  let d := nib0 w0
  match (nib2 w0).toNat with
  | 0x0 => some (.extUB d s)
  | 0x1 => some (.extUW d s)
  | 0x2 => some (.extSB d s)
  | 0x3 => some (.extSW d s)
  | 0x4 => some (.ldReg d s)
  | 0x5 =>
    match (nib1 w0).toNat with
    | 0x0 => some (.ldSimm17 d (0#1 ++ w1))
    | 0x1 => some (.ldSimm17 d (1#1 ++ w1))
    | 0x2 => some (.ldImm32 d (w1 ++ w2))
    | 0x3 => some (.ldes d)
    | 0x4 => some (.com d)
    | 0x5 => some (.neg d)
    | _ => none
  | 0x8 => if w1.msb then some (.leaInd d s (low14 w1)) else some (loadInstr .q d (.ind s (low14 w1)))
  | 0x9 => some (loadInstr (kindZB (top2 w1)) d (.ind s (low14 w1)))
  | 0xA => some (storeInstr .quad (.ind d (low14 w1)) s)
  | 0xB => some (storeInstr (if w1.getLsbD 14 then .word else .byte) (.ind d (low14 w1)) s)
  | 0xC => some (.leaFp d (mid6 w0))
  | 0xD => some (.leaFp d (mid6 w0))
  | 0xE => some (.leaFp d (mid6 w0))
  | 0xF => some (.leaFp d (mid6 w0))
  | _ => none

/-- 5000H to 5FFFH: loads and stores through the Frame Pointer (R163). -/
noncomputable def decode5 (w0 : Word) : Option Instr :=
  match ((nib2 w0).extractLsb' 2 2).toNat with
  | 0 => some (storeInstr .byte (.fp (mid6 w0)) (nib0 w0))
  | 1 => some (storeInstr .word (.fp (mid6 w0)) (nib0 w0))
  | 2 => some (storeInstr .quad (.fp (mid6 w0)) (nib0 w0))
  | _ => some (loadInstr .q (nib0 w0) (.fp (mid6 w0)))

/-- 6000H to 6FFFH: extended loads through the Frame Pointer (R164). -/
noncomputable def decode6 (w0 : Word) : Option Instr :=
  some (loadInstr (kindZB ((nib2 w0).extractLsb' 2 2)) (nib0 w0) (.fp (mid6 w0)))

/-- 7000H to 7FFFH: binary operations with a direct or a register-indirect operand (R165, R166). -/
noncomputable def decode7 (w0 w1 w2 : Word) : Option Instr :=
  let op := Bop.ofBits ((nib2 w0).extractLsb' 0 3)
  if (nib2 w0).msb then
    match (top3 w1).toNat with
    | 4 => some (bopInstr op (.load .q (nib0 w0) (.ind (nib1 w0) (low13 w1))))
    | 5 => some (bopInstr op (.store .byte (.ind (nib0 w0) (low13 w1)) (nib1 w0)))
    | 6 => some (bopInstr op (.store .word (.ind (nib0 w0) (low13 w1)) (nib1 w0)))
    | 7 => some (bopInstr op (.store .quad (.ind (nib0 w0) (low13 w1)) (nib1 w0)))
    | _ => some (bopInstr op (.load (kindBZ ((top3 w1).extractLsb' 0 2)) (nib0 w0) (.ind (nib1 w0) (low13 w1))))
  else
    let m : Mem13 := if (nib1 w0).msb then .addr32 (w1 ++ w2) else .addr16 w1
    match ((nib1 w0).extractLsb' 0 3).toNat with
    | 4 => some (bopInstr op (.load .q (nib0 w0) m))
    | 5 => some (bopInstr op (.store .byte m (nib0 w0)))
    | 6 => some (bopInstr op (.store .word m (nib0 w0)))
    | 7 => some (bopInstr op (.store .quad m (nib0 w0)))
    | _ => some (bopInstr op (.load (kindBZ ((nib1 w0).extractLsb' 0 2)) (nib0 w0) m))

/-- The size of a unary operation on (Rd) or a direct address: selector bits `1x` quad, `01` word, `00` byte (R210). -/
def uopSize (b : BitVec 2) : Size :=
  match b.toNat with
  | 0 => .byte
  | 1 => .word
  | _ => .quad

/-- AD00H to ADFFH (R172). -/
noncomputable def decodeAD (w0 w1 w2 : Word) : Option Instr :=
  let z := uopSize ((nib0 w0).extractLsb' 2 2)
  let op := Uop.ofBits ((nib0 w0).extractLsb' 0 2)
  match (nib1 w0).toNat with
  | 0x8 => none
  | 0x9 => some (bopInstr (Bop.ofBits (w1.extractLsb' 8 3)) (.memBImm8 (nib0 w0) (low8 w1)))
  | 0xA => some (uopInstr op z (.addr16 w1))
  | 0xB => some (uopInstr op z (.addr32 (w1 ++ w2)))
  | 0xC => some (uopInstr .clr (uopSize (top2 w1)) (.ind (nib0 w0) (low14 w1)))
  | 0xD => some (uopInstr .cpz (uopSize (top2 w1)) (.ind (nib0 w0) (low14 w1)))
  | 0xE => some (uopInstr .inc (uopSize (top2 w1)) (.ind (nib0 w0) (low14 w1)))
  | 0xF => some (uopInstr .dec (uopSize (top2 w1)) (.ind (nib0 w0) (low14 w1)))
  | _ => some (bopInstr (Bop.ofBits ((nib1 w0).extractLsb' 0 3)) (.memSimm16 (nib0 w0) w1))

/-- A000H to AFFFH (R168 to R173). -/
noncomputable def decodeA (w0 w1 w2 : Word) : Option Instr :=
  let s := nib1 w0
  let d := nib0 w0
  let op := Bop.ofBits ((nib1 w0).extractLsb' 0 3)
  match (nib2 w0).toNat with
  | 0x8 => none
  | 0x9 => none
  | 0xA => some (bopInstr op (if (nib1 w0).msb then .imm32 d (w1 ++ w2) else .uimm16 d w1))
  | 0xB => some (bopInstr op (if (nib1 w0).msb then .memImm32 d (w1 ++ w2) else .memWImm16 d w1))
  | 0xC => some (uopInstr (Uop.ofBits ((nib1 w0).extractLsb' 0 2)) (uopSize ((nib1 w0).extractLsb' 2 2)) (.mem d))
  | 0xD => decodeAD w0 w1 w2
  | 0xE => some (.udiv d s)
  | 0xF => some (.sdiv d s)
  | _ => some (bopInstr (Bop.ofBits ((nib2 w0).extractLsb' 0 3)) (.reg d s))

/-- B000H to BFFFH: multiplies, shifts and rotates (R173, R174). -/
noncomputable def decodeB (w0 : Word) : Option Instr :=
  let s := nib1 w0
  let d := nib0 w0
  match (nib2 w0).toNat with
  | 0x0 => some (.umul d s)
  | 0x1 => some (.smul d s)
  | 0x2 => some (.mul d s)
  | 0x3 => none
  | 0x4 => some (.sraReg d s)
  | 0x5 => some (.srlReg d s)
  | 0x6 => some (.sllReg d s)
  | 0x7 => some (.rlReg d s)
  | 0x8 => some (.sraImm d (mid5 w0))
  | 0x9 => some (.sraImm d (mid5 w0))
  | 0xA => some (.srlImm d (mid5 w0))
  | 0xB => some (.srlImm d (mid5 w0))
  | 0xC => some (.sllImm d (mid5 w0))
  | 0xD => some (.sllImm d (mid5 w0))
  | _ => some (.rlImm d (mid5 w0))

/-- FF00H to FFFFH: the last of the map (R176). -/
noncomputable def decodeFF (w0 : Word) : Option Instr :=
  match (low8 w0).toNat with
  | 0xF7 => some .wdt
  | 0xF8 => some .stop
  | 0xF9 => some .halt
  | 0xFA => some .ei
  | 0xFB => some .di
  | 0xFC => some .ret
  | 0xFD => some .iret
  | 0xFE => some .nop
  | 0xFF => some .ill
  | _ => none

/-- F000H to FFFFH (R176). -/
noncomputable def decodeF (w0 w1 w2 : Word) : Option Instr :=
  match (nib2 w0).toNat with
  | 0x0 => some (.jpRel24 (low8 w0 ++ w1))
  | 0x1 => some (.callRel24 (low8 w0 ++ w1))
  | 0x2 =>
    match (nib1 w0).toNat with
    | 0x0 => some (.jpInd (nib0 w0))
    | 0x1 => some (.callInd (nib0 w0))
    | 0x2 => some (.jpCcRel16 (nib0 w0) w1)
    | 0x3 =>
      match (nib0 w0).toNat with
      | 0x0 => some (.jpa (w1 ++ w2))
      | 0x1 => some (.calla (w1 ++ w2))
      | _ => none
    | _ => none
  | 0xD => some (.djnz (nib0 w0) (nib1 w0))
  | 0xE => some (.trap (low8 w0))
  | 0xF => decodeFF w0
  | _ => none

/-- The row of the opcode table that words 0, 1 and 2 match; none where word 0 is unimplemented (R140 to R177). Words the
instruction does not have are not looked at. -/
noncomputable def decodeRow (w0 w1 w2 : Word) : Option Instr :=
  match (nib3 w0).toNat with
  | 0x0 => decode0 w0 w1 w2
  | 0x1 => decode1 w0
  | 0x2 => some (.addReg3 (nib2 w0) (nib1 w0) (nib0 w0))
  | 0x3 => some (.ldSimm8 (nib2 w0) (low8 w0))
  | 0x4 => decode4 w0 w1 w2
  | 0x5 => decode5 w0
  | 0x6 => decode6 w0
  | 0x7 => decode7 w0 w1 w2
  | 0x8 => some (.addSimm8 (nib2 w0) (low8 w0))
  | 0x9 => some (.cpSimm8 (nib2 w0) (low8 w0))
  | 0xA => decodeA w0 w1 w2
  | 0xB => decodeB w0
  | 0xC => some (.jpRel12 (low12 w0))
  | 0xD => some (.callRel12 (low12 w0))
  | 0xE => some (.jpCcRel8 (nib2 w0) (low8 w0))
  | _ => decodeF w0 w1 w2

/-! ### Decoding -/

/-- What the words of an instruction decode to. -/
inductive Decoded where
  /-- The instruction. -/
  | instr (i : Instr)
  /-- Word 0 is unimplemented: the machine takes the Illegal Instruction exception (R177, R531). -/
  | illegal (w0 : Word)
  /-- The Extend latch is set and the instruction has no extended form: outside the defined behaviour (R182, D7). -/
  | extendUndefined (w0 : Word)
deriving DecidableEq, Repr

/-- What a list of bytes decodes to. -/
inductive DecodedBytes where
  /-- The bytes hold the whole instruction, and this is it. -/
  | whole (d : Decoded)
  /-- There are fewer bytes than the instruction has. -/
  | truncated
deriving DecidableEq, Repr

/-- The instructions with an extended form (R181), those rows of the opcode table that carry `extended`. -/
def hasExtended : Instr → Bool
  | .addImm32 _ _ => true
  | .addUimm16 _ _ => true
  | .addReg _ _ => true
  | .addAddr16 _ _ => true
  | .addAddr32 _ _ => true
  | .addInd _ _ _ => true
  | .addSWAddr16 _ _ => true
  | .addSWAddr32 _ _ => true
  | .addSWInd _ _ _ => true
  | .addUWAddr16 _ _ => true
  | .addUWAddr32 _ _ => true
  | .addUWInd _ _ _ => true
  | .addSBAddr16 _ _ => true
  | .addSBAddr32 _ _ => true
  | .addSBInd _ _ _ => true
  | .addUBAddr16 _ _ => true
  | .addUBAddr32 _ _ => true
  | .addUBInd _ _ _ => true
  | .addToAddr16 _ _ => true
  | .addToAddr32 _ _ => true
  | .addToInd _ _ _ => true
  | .addWToAddr16 _ _ => true
  | .addWToAddr32 _ _ => true
  | .addWToInd _ _ _ => true
  | .addBToAddr16 _ _ => true
  | .addBToAddr32 _ _ => true
  | .addBToInd _ _ _ => true
  | .addMemImm32 _ _ => true
  | .addMemSimm16 _ _ => true
  | .addWMemImm16 _ _ => true
  | .addBMemImm8 _ _ => true
  | .subImm32 _ _ => true
  | .subUimm16 _ _ => true
  | .subReg _ _ => true
  | .subAddr16 _ _ => true
  | .subAddr32 _ _ => true
  | .subInd _ _ _ => true
  | .subSWAddr16 _ _ => true
  | .subSWAddr32 _ _ => true
  | .subSWInd _ _ _ => true
  | .subUWAddr16 _ _ => true
  | .subUWAddr32 _ _ => true
  | .subUWInd _ _ _ => true
  | .subSBAddr16 _ _ => true
  | .subSBAddr32 _ _ => true
  | .subSBInd _ _ _ => true
  | .subUBAddr16 _ _ => true
  | .subUBAddr32 _ _ => true
  | .subUBInd _ _ _ => true
  | .subToAddr16 _ _ => true
  | .subToAddr32 _ _ => true
  | .subToInd _ _ _ => true
  | .subWToAddr16 _ _ => true
  | .subWToAddr32 _ _ => true
  | .subWToInd _ _ _ => true
  | .subBToAddr16 _ _ => true
  | .subBToAddr32 _ _ => true
  | .subBToInd _ _ _ => true
  | .subMemImm32 _ _ => true
  | .subMemSimm16 _ _ => true
  | .subWMemImm16 _ _ => true
  | .subBMemImm8 _ _ => true
  | .cpImm32 _ _ => true
  | .cpUimm16 _ _ => true
  | .cpReg _ _ => true
  | .cpAddr16 _ _ => true
  | .cpAddr32 _ _ => true
  | .cpInd _ _ _ => true
  | .cpSWAddr16 _ _ => true
  | .cpSWAddr32 _ _ => true
  | .cpSWInd _ _ _ => true
  | .cpUWAddr16 _ _ => true
  | .cpUWAddr32 _ _ => true
  | .cpUWInd _ _ _ => true
  | .cpSBAddr16 _ _ => true
  | .cpSBAddr32 _ _ => true
  | .cpSBInd _ _ _ => true
  | .cpUBAddr16 _ _ => true
  | .cpUBAddr32 _ _ => true
  | .cpUBInd _ _ _ => true
  | .cpToAddr16 _ _ => true
  | .cpToAddr32 _ _ => true
  | .cpToInd _ _ _ => true
  | .cpWToAddr16 _ _ => true
  | .cpWToAddr32 _ _ => true
  | .cpWToInd _ _ _ => true
  | .cpBToAddr16 _ _ => true
  | .cpBToAddr32 _ _ => true
  | .cpBToInd _ _ _ => true
  | .cpMemImm32 _ _ => true
  | .cpMemSimm16 _ _ => true
  | .cpWMemImm16 _ _ => true
  | .cpBMemImm8 _ _ => true
  | .addReg3 _ _ _ => true
  | .addSimm8 _ _ => true
  | .cpSimm8 _ _ => true
  | .cpzAddr16 _ => true
  | .cpzAddr32 _ => true
  | .cpzMem _ => true
  | .cpzInd _ _ => true
  | .cpzWAddr16 _ => true
  | .cpzWAddr32 _ => true
  | .cpzWMem _ => true
  | .cpzWInd _ _ => true
  | .cpzBAddr16 _ => true
  | .cpzBAddr32 _ => true
  | .cpzBMem _ => true
  | .cpzBInd _ _ => true
  | .udiv _ _ => true
  | .sraReg _ _ => true
  | .srlReg _ _ => true
  | .sllReg _ _ => true
  | .cpczReg _ => true
  | _ => false

/-- The instruction a row is when the Extend latch is set. CP Rd,#0 is CPCZ Rd (R189, R215). NOFLAGS and the Extend prefix
may precede the same instruction in either order (R402). An illegal word stays an illegal word (R531): ILL always, BRK
where breaks are disabled, which its meaning looks at (R410). Any other instruction must have an extended form (R182). -/
noncomputable def decodeExtended (w0 : Word) : Instr → Decoded
  | .noflags => .instr .noflags
  | .extend => .instr .extend
  | .ill => .instr .ill
  | .brk => .instr .brk
  | .cpSimm8 rd imm => if imm = 0#8 then .instr (.cpczReg rd) else .instr (.cpSimm8 rd imm)
  | i => if hasExtended i then .instr i else .extendUndefined w0

/-- Decode the words of an instruction, with the Extend latch set or clear (R185). -/
noncomputable def decodeWords (ext : Bool) (w0 w1 w2 : Word) : Decoded :=
  match decodeRow w0 w1 w2 with
  | none => .illegal w0
  | some i => if ext then decodeExtended w0 i else .instr i

/-- The big-endian words of a list of bytes (R121); an odd byte at the end is dropped. -/
def bytesToWords : List Byte → List Word
  | b0 :: b1 :: bs => (b0 ++ b1) :: bytesToWords bs
  | _ => []

/-- Decode the bytes of an instruction, lowest address first, with the Extend latch set or clear. Total: bytes beyond the
instruction's length are not looked at, and too few bytes are answered as such. -/
noncomputable def decode (ext : Bool) (bs : List Byte) : DecodedBytes :=
  match bytesToWords bs with
  | [] => .truncated
  | w0 :: ws =>
    if ws.length + 1 < instrWords w0 then .truncated
    else .whole (decodeWords ext w0 (ws.getD 0 0#16) (ws.getD 1 0#16))

/-! ### Encoding -/

/-- The number `ooo` of a binary operation (R139). -/
def Bop.bits : Bop → BitVec 3
  | .add => 0b000#3
  | .sub => 0b001#3
  | .and => 0b010#3
  | .or => 0b011#3
  | .xor => 0b100#3
  | .cp => 0b101#3
  | .tm => 0b110#3
  | .tcm => 0b111#3

/-- The number `oo` of a unary operation (R139). -/
def Uop.bits : Uop → BitVec 2
  | .clr => 0b00#2
  | .cpz => 0b01#2
  | .inc => 0b10#2
  | .dec => 0b11#2

/-- The three selector bits of a memory source of a binary operation: word 0 [6:4] of a direct form, word 1 [15:13] of a
register-indirect form (R128, R165, R166). -/
def loadSel : LoadKind → BitVec 3
  | .ub => 0b000#3
  | .sb => 0b001#3
  | .uw => 0b010#3
  | .sw => 0b011#3
  | .q => 0b100#3

/-- The three selector bits of a memory destination with a register source (R146, R165, R166). -/
def storeSel : Size → BitVec 3
  | .byte => 0b101#3
  | .word => 0b110#3
  | .quad => 0b111#3

/-- The `zb` selector of an extended load (R128). -/
def zbSel : LoadKind → BitVec 2
  | .ub => 0b00#2
  | .uw => 0b01#2
  | .sb => 0b10#2
  | .sw => 0b11#2
  | .q => 0b00#2

/-- The words of a binary operation (R204). -/
def encodeBop (op : Bop) : BopForm → List Word
  | .imm32 rd imm => (0xAA#8 ++ 1#1 ++ op.bits ++ rd) :: quadWords imm
  | .uimm16 rd imm => [0xAA#8 ++ 0#1 ++ op.bits ++ rd, imm]
  | .reg rd rs => [0xA#4 ++ 0#1 ++ op.bits ++ rs ++ rd]
  | .load k rd (.addr16 a) => [0x7#4 ++ 0#1 ++ op.bits ++ 0#1 ++ loadSel k ++ rd, a]
  | .load k rd (.addr32 a) => (0x7#4 ++ 0#1 ++ op.bits ++ 1#1 ++ loadSel k ++ rd) :: quadWords a
  | .load k rd (.ind rs off) => [0x7#4 ++ 1#1 ++ op.bits ++ rs ++ rd, loadSel k ++ off]
  | .store z (.addr16 a) rs => [0x7#4 ++ 0#1 ++ op.bits ++ 0#1 ++ storeSel z ++ rs, a]
  | .store z (.addr32 a) rs => (0x7#4 ++ 0#1 ++ op.bits ++ 1#1 ++ storeSel z ++ rs) :: quadWords a
  | .store z (.ind rd off) rs => [0x7#4 ++ 1#1 ++ op.bits ++ rs ++ rd, storeSel z ++ off]
  | .memImm32 rd imm => (0xAB#8 ++ 1#1 ++ op.bits ++ rd) :: quadWords imm
  | .memSimm16 rd imm => [0xAD#8 ++ 0#1 ++ op.bits ++ rd, imm]
  | .memWImm16 rd imm => [0xAB#8 ++ 0#1 ++ op.bits ++ rd, imm]
  | .memBImm8 rd imm => [0xAD9#12 ++ rd, 0#5 ++ op.bits ++ imm]

/-- The size selector of a unary operation, don't-care bits 0 (R210). -/
def uopSel : Size → BitVec 2
  | .byte => 0b00#2
  | .word => 0b01#2
  | .quad => 0b10#2

/-- The words of a unary operation (R210). -/
def encodeUop (op : Uop) (z : Size) : UopMem → List Word
  | .addr16 a => [0xADA#12 ++ uopSel z ++ op.bits, a]
  | .addr32 a => (0xADB#12 ++ uopSel z ++ op.bits) :: quadWords a
  | .mem rd => [0xAC#8 ++ uopSel z ++ op.bits ++ rd]
  | .ind rd off => [0xAD#8 ++ 0b11#2 ++ op.bits ++ rd, uopSel z ++ off]

/-- The high byte of a load through a pointer without increment (R315). -/
def ptrLoadOp : LoadKind → BitVec 8
  | .q => 0x12#8
  | .ub => 0x18#8
  | .uw => 0x1A#8
  | .sb => 0x1C#8
  | .sw => 0x1E#8

/-- The words of LD with a memory source (R314 to R317). -/
def encodeLoad (k : LoadKind) (rd : Reg) : LoadMem → List Word
  | .pc off => if k = .q then [0x002#12 ++ rd, 0#2 ++ off] else [0x003#12 ++ rd, zbSel k ++ off]
  | .addr16 a => [0x03#8 ++ 0#1 ++ loadSel k ++ rd, a]
  | .addr32 a => (0x03#8 ++ 1#1 ++ loadSel k ++ rd) :: quadWords a
  | .mem rs => [ptrLoadOp k ++ rs ++ rd]
  | .postInc rs => [(ptrLoadOp k + 1#8) ++ rs ++ rd]
  | .ind rs off => if k = .q then [0x48#8 ++ rs ++ rd, 0#2 ++ off] else [0x49#8 ++ rs ++ rd, zbSel k ++ off]
  | .fp off => if k = .q then [0b010111#6 ++ off ++ rd] else [0x6#4 ++ zbSel k ++ off ++ rd]

/-- The high byte of a store through a pointer: without update, predecrement, postincrement (R322 to R324). -/
def ptrStoreOp : Size → BitVec 8 × BitVec 8 × BitVec 8
  | .quad => (0x0B#8, 0x10#8, 0x11#8)
  | .byte => (0x0E#8, 0x14#8, 0x15#8)
  | .word => (0x0F#8, 0x16#8, 0x17#8)

/-- Word 0 bits [15:10] of a store through the Frame Pointer (R322). -/
def fpStoreOp : Size → BitVec 6
  | .byte => 0b010100#6
  | .word => 0b010101#6
  | .quad => 0b010110#6

/-- The words of LD with a memory destination and a register source (R321 to R324). -/
def encodeStore (z : Size) (m : StoreMem) (rs : Reg) : List Word :=
  match m with
  | .addr16 a => [0x03#8 ++ 0#1 ++ storeSel z ++ rs, a]
  | .addr32 a => (0x03#8 ++ 1#1 ++ storeSel z ++ rs) :: quadWords a
  | .mem rd => [(ptrStoreOp z).1 ++ rs ++ rd]
  | .preDec rd => [(ptrStoreOp z).2.1 ++ rs ++ rd]
  | .postInc rd => [(ptrStoreOp z).2.2 ++ rs ++ rd]
  | .ind rd off =>
    match z with
    | .quad => [0x4A#8 ++ rs ++ rd, 0#2 ++ off]
    | .byte => [0x4B#8 ++ rs ++ rd, 0b00#2 ++ off]
    | .word => [0x4B#8 ++ rs ++ rd, 0b01#2 ++ off]
  | .fp off => [fpStoreOp z ++ off ++ rs]

/-- The words of LD with a memory destination and an immediate source (R325 to R327). -/
def encodeStoreImm (m : PtrMode) (rd : Reg) : StoreVal → List Word
  | .imm32 imm =>
    match m with
    | .mem => (0x09D#12 ++ rd) :: quadWords imm
    | .preDec => (0x09E#12 ++ rd) :: quadWords imm
    | .postInc => (0x09F#12 ++ rd) :: quadWords imm
  | .simm16 imm =>
    match m with
    | .mem => [0x097#12 ++ rd, imm]
    | .preDec => [0x099#12 ++ rd, imm]
    | .postInc => [0x09B#12 ++ rd, imm]
  | .wImm16 imm =>
    match m with
    | .mem => [0x096#12 ++ rd, imm]
    | .preDec => [0x098#12 ++ rd, imm]
    | .postInc => [0x09A#12 ++ rd, imm]
  | .bImm8 imm =>
    match m with
    | .mem => [0x09C#12 ++ rd, 0#8 ++ imm]
    | .preDec => [0x094#12 ++ rd, 0#8 ++ imm]
    | .postInc => [0x095#12 ++ rd, 0#8 ++ imm]

/-- The words of a well-formed instruction, don't-care bits 0. The Extend prefix is an instruction of its own and not among
them (R180): `needsExtend` says which instruction exists only behind it. -/
def encode : Instr → List Word
  | .addImm32 rd imm => encodeBop .add (.imm32 rd imm)
  | .addUimm16 rd imm => encodeBop .add (.uimm16 rd imm)
  | .addReg rd rs => encodeBop .add (.reg rd rs)
  | .addAddr16 rd addr => encodeBop .add (.load .q rd (.addr16 addr))
  | .addAddr32 rd addr => encodeBop .add (.load .q rd (.addr32 addr))
  | .addInd rd rs off => encodeBop .add (.load .q rd (.ind rs off))
  | .addSWAddr16 rd addr => encodeBop .add (.load .sw rd (.addr16 addr))
  | .addSWAddr32 rd addr => encodeBop .add (.load .sw rd (.addr32 addr))
  | .addSWInd rd rs off => encodeBop .add (.load .sw rd (.ind rs off))
  | .addUWAddr16 rd addr => encodeBop .add (.load .uw rd (.addr16 addr))
  | .addUWAddr32 rd addr => encodeBop .add (.load .uw rd (.addr32 addr))
  | .addUWInd rd rs off => encodeBop .add (.load .uw rd (.ind rs off))
  | .addSBAddr16 rd addr => encodeBop .add (.load .sb rd (.addr16 addr))
  | .addSBAddr32 rd addr => encodeBop .add (.load .sb rd (.addr32 addr))
  | .addSBInd rd rs off => encodeBop .add (.load .sb rd (.ind rs off))
  | .addUBAddr16 rd addr => encodeBop .add (.load .ub rd (.addr16 addr))
  | .addUBAddr32 rd addr => encodeBop .add (.load .ub rd (.addr32 addr))
  | .addUBInd rd rs off => encodeBop .add (.load .ub rd (.ind rs off))
  | .addToAddr16 addr rs => encodeBop .add (.store .quad (.addr16 addr) rs)
  | .addToAddr32 addr rs => encodeBop .add (.store .quad (.addr32 addr) rs)
  | .addToInd rd off rs => encodeBop .add (.store .quad (.ind rd off) rs)
  | .addWToAddr16 addr rs => encodeBop .add (.store .word (.addr16 addr) rs)
  | .addWToAddr32 addr rs => encodeBop .add (.store .word (.addr32 addr) rs)
  | .addWToInd rd off rs => encodeBop .add (.store .word (.ind rd off) rs)
  | .addBToAddr16 addr rs => encodeBop .add (.store .byte (.addr16 addr) rs)
  | .addBToAddr32 addr rs => encodeBop .add (.store .byte (.addr32 addr) rs)
  | .addBToInd rd off rs => encodeBop .add (.store .byte (.ind rd off) rs)
  | .addMemImm32 rd imm => encodeBop .add (.memImm32 rd imm)
  | .addMemSimm16 rd imm => encodeBop .add (.memSimm16 rd imm)
  | .addWMemImm16 rd imm => encodeBop .add (.memWImm16 rd imm)
  | .addBMemImm8 rd imm => encodeBop .add (.memBImm8 rd imm)
  | .subImm32 rd imm => encodeBop .sub (.imm32 rd imm)
  | .subUimm16 rd imm => encodeBop .sub (.uimm16 rd imm)
  | .subReg rd rs => encodeBop .sub (.reg rd rs)
  | .subAddr16 rd addr => encodeBop .sub (.load .q rd (.addr16 addr))
  | .subAddr32 rd addr => encodeBop .sub (.load .q rd (.addr32 addr))
  | .subInd rd rs off => encodeBop .sub (.load .q rd (.ind rs off))
  | .subSWAddr16 rd addr => encodeBop .sub (.load .sw rd (.addr16 addr))
  | .subSWAddr32 rd addr => encodeBop .sub (.load .sw rd (.addr32 addr))
  | .subSWInd rd rs off => encodeBop .sub (.load .sw rd (.ind rs off))
  | .subUWAddr16 rd addr => encodeBop .sub (.load .uw rd (.addr16 addr))
  | .subUWAddr32 rd addr => encodeBop .sub (.load .uw rd (.addr32 addr))
  | .subUWInd rd rs off => encodeBop .sub (.load .uw rd (.ind rs off))
  | .subSBAddr16 rd addr => encodeBop .sub (.load .sb rd (.addr16 addr))
  | .subSBAddr32 rd addr => encodeBop .sub (.load .sb rd (.addr32 addr))
  | .subSBInd rd rs off => encodeBop .sub (.load .sb rd (.ind rs off))
  | .subUBAddr16 rd addr => encodeBop .sub (.load .ub rd (.addr16 addr))
  | .subUBAddr32 rd addr => encodeBop .sub (.load .ub rd (.addr32 addr))
  | .subUBInd rd rs off => encodeBop .sub (.load .ub rd (.ind rs off))
  | .subToAddr16 addr rs => encodeBop .sub (.store .quad (.addr16 addr) rs)
  | .subToAddr32 addr rs => encodeBop .sub (.store .quad (.addr32 addr) rs)
  | .subToInd rd off rs => encodeBop .sub (.store .quad (.ind rd off) rs)
  | .subWToAddr16 addr rs => encodeBop .sub (.store .word (.addr16 addr) rs)
  | .subWToAddr32 addr rs => encodeBop .sub (.store .word (.addr32 addr) rs)
  | .subWToInd rd off rs => encodeBop .sub (.store .word (.ind rd off) rs)
  | .subBToAddr16 addr rs => encodeBop .sub (.store .byte (.addr16 addr) rs)
  | .subBToAddr32 addr rs => encodeBop .sub (.store .byte (.addr32 addr) rs)
  | .subBToInd rd off rs => encodeBop .sub (.store .byte (.ind rd off) rs)
  | .subMemImm32 rd imm => encodeBop .sub (.memImm32 rd imm)
  | .subMemSimm16 rd imm => encodeBop .sub (.memSimm16 rd imm)
  | .subWMemImm16 rd imm => encodeBop .sub (.memWImm16 rd imm)
  | .subBMemImm8 rd imm => encodeBop .sub (.memBImm8 rd imm)
  | .andImm32 rd imm => encodeBop .and (.imm32 rd imm)
  | .andUimm16 rd imm => encodeBop .and (.uimm16 rd imm)
  | .andReg rd rs => encodeBop .and (.reg rd rs)
  | .andAddr16 rd addr => encodeBop .and (.load .q rd (.addr16 addr))
  | .andAddr32 rd addr => encodeBop .and (.load .q rd (.addr32 addr))
  | .andInd rd rs off => encodeBop .and (.load .q rd (.ind rs off))
  | .andSWAddr16 rd addr => encodeBop .and (.load .sw rd (.addr16 addr))
  | .andSWAddr32 rd addr => encodeBop .and (.load .sw rd (.addr32 addr))
  | .andSWInd rd rs off => encodeBop .and (.load .sw rd (.ind rs off))
  | .andUWAddr16 rd addr => encodeBop .and (.load .uw rd (.addr16 addr))
  | .andUWAddr32 rd addr => encodeBop .and (.load .uw rd (.addr32 addr))
  | .andUWInd rd rs off => encodeBop .and (.load .uw rd (.ind rs off))
  | .andSBAddr16 rd addr => encodeBop .and (.load .sb rd (.addr16 addr))
  | .andSBAddr32 rd addr => encodeBop .and (.load .sb rd (.addr32 addr))
  | .andSBInd rd rs off => encodeBop .and (.load .sb rd (.ind rs off))
  | .andUBAddr16 rd addr => encodeBop .and (.load .ub rd (.addr16 addr))
  | .andUBAddr32 rd addr => encodeBop .and (.load .ub rd (.addr32 addr))
  | .andUBInd rd rs off => encodeBop .and (.load .ub rd (.ind rs off))
  | .andToAddr16 addr rs => encodeBop .and (.store .quad (.addr16 addr) rs)
  | .andToAddr32 addr rs => encodeBop .and (.store .quad (.addr32 addr) rs)
  | .andToInd rd off rs => encodeBop .and (.store .quad (.ind rd off) rs)
  | .andWToAddr16 addr rs => encodeBop .and (.store .word (.addr16 addr) rs)
  | .andWToAddr32 addr rs => encodeBop .and (.store .word (.addr32 addr) rs)
  | .andWToInd rd off rs => encodeBop .and (.store .word (.ind rd off) rs)
  | .andBToAddr16 addr rs => encodeBop .and (.store .byte (.addr16 addr) rs)
  | .andBToAddr32 addr rs => encodeBop .and (.store .byte (.addr32 addr) rs)
  | .andBToInd rd off rs => encodeBop .and (.store .byte (.ind rd off) rs)
  | .andMemImm32 rd imm => encodeBop .and (.memImm32 rd imm)
  | .andMemSimm16 rd imm => encodeBop .and (.memSimm16 rd imm)
  | .andWMemImm16 rd imm => encodeBop .and (.memWImm16 rd imm)
  | .andBMemImm8 rd imm => encodeBop .and (.memBImm8 rd imm)
  | .orImm32 rd imm => encodeBop .or (.imm32 rd imm)
  | .orUimm16 rd imm => encodeBop .or (.uimm16 rd imm)
  | .orReg rd rs => encodeBop .or (.reg rd rs)
  | .orAddr16 rd addr => encodeBop .or (.load .q rd (.addr16 addr))
  | .orAddr32 rd addr => encodeBop .or (.load .q rd (.addr32 addr))
  | .orInd rd rs off => encodeBop .or (.load .q rd (.ind rs off))
  | .orSWAddr16 rd addr => encodeBop .or (.load .sw rd (.addr16 addr))
  | .orSWAddr32 rd addr => encodeBop .or (.load .sw rd (.addr32 addr))
  | .orSWInd rd rs off => encodeBop .or (.load .sw rd (.ind rs off))
  | .orUWAddr16 rd addr => encodeBop .or (.load .uw rd (.addr16 addr))
  | .orUWAddr32 rd addr => encodeBop .or (.load .uw rd (.addr32 addr))
  | .orUWInd rd rs off => encodeBop .or (.load .uw rd (.ind rs off))
  | .orSBAddr16 rd addr => encodeBop .or (.load .sb rd (.addr16 addr))
  | .orSBAddr32 rd addr => encodeBop .or (.load .sb rd (.addr32 addr))
  | .orSBInd rd rs off => encodeBop .or (.load .sb rd (.ind rs off))
  | .orUBAddr16 rd addr => encodeBop .or (.load .ub rd (.addr16 addr))
  | .orUBAddr32 rd addr => encodeBop .or (.load .ub rd (.addr32 addr))
  | .orUBInd rd rs off => encodeBop .or (.load .ub rd (.ind rs off))
  | .orToAddr16 addr rs => encodeBop .or (.store .quad (.addr16 addr) rs)
  | .orToAddr32 addr rs => encodeBop .or (.store .quad (.addr32 addr) rs)
  | .orToInd rd off rs => encodeBop .or (.store .quad (.ind rd off) rs)
  | .orWToAddr16 addr rs => encodeBop .or (.store .word (.addr16 addr) rs)
  | .orWToAddr32 addr rs => encodeBop .or (.store .word (.addr32 addr) rs)
  | .orWToInd rd off rs => encodeBop .or (.store .word (.ind rd off) rs)
  | .orBToAddr16 addr rs => encodeBop .or (.store .byte (.addr16 addr) rs)
  | .orBToAddr32 addr rs => encodeBop .or (.store .byte (.addr32 addr) rs)
  | .orBToInd rd off rs => encodeBop .or (.store .byte (.ind rd off) rs)
  | .orMemImm32 rd imm => encodeBop .or (.memImm32 rd imm)
  | .orMemSimm16 rd imm => encodeBop .or (.memSimm16 rd imm)
  | .orWMemImm16 rd imm => encodeBop .or (.memWImm16 rd imm)
  | .orBMemImm8 rd imm => encodeBop .or (.memBImm8 rd imm)
  | .xorImm32 rd imm => encodeBop .xor (.imm32 rd imm)
  | .xorUimm16 rd imm => encodeBop .xor (.uimm16 rd imm)
  | .xorReg rd rs => encodeBop .xor (.reg rd rs)
  | .xorAddr16 rd addr => encodeBop .xor (.load .q rd (.addr16 addr))
  | .xorAddr32 rd addr => encodeBop .xor (.load .q rd (.addr32 addr))
  | .xorInd rd rs off => encodeBop .xor (.load .q rd (.ind rs off))
  | .xorSWAddr16 rd addr => encodeBop .xor (.load .sw rd (.addr16 addr))
  | .xorSWAddr32 rd addr => encodeBop .xor (.load .sw rd (.addr32 addr))
  | .xorSWInd rd rs off => encodeBop .xor (.load .sw rd (.ind rs off))
  | .xorUWAddr16 rd addr => encodeBop .xor (.load .uw rd (.addr16 addr))
  | .xorUWAddr32 rd addr => encodeBop .xor (.load .uw rd (.addr32 addr))
  | .xorUWInd rd rs off => encodeBop .xor (.load .uw rd (.ind rs off))
  | .xorSBAddr16 rd addr => encodeBop .xor (.load .sb rd (.addr16 addr))
  | .xorSBAddr32 rd addr => encodeBop .xor (.load .sb rd (.addr32 addr))
  | .xorSBInd rd rs off => encodeBop .xor (.load .sb rd (.ind rs off))
  | .xorUBAddr16 rd addr => encodeBop .xor (.load .ub rd (.addr16 addr))
  | .xorUBAddr32 rd addr => encodeBop .xor (.load .ub rd (.addr32 addr))
  | .xorUBInd rd rs off => encodeBop .xor (.load .ub rd (.ind rs off))
  | .xorToAddr16 addr rs => encodeBop .xor (.store .quad (.addr16 addr) rs)
  | .xorToAddr32 addr rs => encodeBop .xor (.store .quad (.addr32 addr) rs)
  | .xorToInd rd off rs => encodeBop .xor (.store .quad (.ind rd off) rs)
  | .xorWToAddr16 addr rs => encodeBop .xor (.store .word (.addr16 addr) rs)
  | .xorWToAddr32 addr rs => encodeBop .xor (.store .word (.addr32 addr) rs)
  | .xorWToInd rd off rs => encodeBop .xor (.store .word (.ind rd off) rs)
  | .xorBToAddr16 addr rs => encodeBop .xor (.store .byte (.addr16 addr) rs)
  | .xorBToAddr32 addr rs => encodeBop .xor (.store .byte (.addr32 addr) rs)
  | .xorBToInd rd off rs => encodeBop .xor (.store .byte (.ind rd off) rs)
  | .xorMemImm32 rd imm => encodeBop .xor (.memImm32 rd imm)
  | .xorMemSimm16 rd imm => encodeBop .xor (.memSimm16 rd imm)
  | .xorWMemImm16 rd imm => encodeBop .xor (.memWImm16 rd imm)
  | .xorBMemImm8 rd imm => encodeBop .xor (.memBImm8 rd imm)
  | .cpImm32 rd imm => encodeBop .cp (.imm32 rd imm)
  | .cpUimm16 rd imm => encodeBop .cp (.uimm16 rd imm)
  | .cpReg rd rs => encodeBop .cp (.reg rd rs)
  | .cpAddr16 rd addr => encodeBop .cp (.load .q rd (.addr16 addr))
  | .cpAddr32 rd addr => encodeBop .cp (.load .q rd (.addr32 addr))
  | .cpInd rd rs off => encodeBop .cp (.load .q rd (.ind rs off))
  | .cpSWAddr16 rd addr => encodeBop .cp (.load .sw rd (.addr16 addr))
  | .cpSWAddr32 rd addr => encodeBop .cp (.load .sw rd (.addr32 addr))
  | .cpSWInd rd rs off => encodeBop .cp (.load .sw rd (.ind rs off))
  | .cpUWAddr16 rd addr => encodeBop .cp (.load .uw rd (.addr16 addr))
  | .cpUWAddr32 rd addr => encodeBop .cp (.load .uw rd (.addr32 addr))
  | .cpUWInd rd rs off => encodeBop .cp (.load .uw rd (.ind rs off))
  | .cpSBAddr16 rd addr => encodeBop .cp (.load .sb rd (.addr16 addr))
  | .cpSBAddr32 rd addr => encodeBop .cp (.load .sb rd (.addr32 addr))
  | .cpSBInd rd rs off => encodeBop .cp (.load .sb rd (.ind rs off))
  | .cpUBAddr16 rd addr => encodeBop .cp (.load .ub rd (.addr16 addr))
  | .cpUBAddr32 rd addr => encodeBop .cp (.load .ub rd (.addr32 addr))
  | .cpUBInd rd rs off => encodeBop .cp (.load .ub rd (.ind rs off))
  | .cpToAddr16 addr rs => encodeBop .cp (.store .quad (.addr16 addr) rs)
  | .cpToAddr32 addr rs => encodeBop .cp (.store .quad (.addr32 addr) rs)
  | .cpToInd rd off rs => encodeBop .cp (.store .quad (.ind rd off) rs)
  | .cpWToAddr16 addr rs => encodeBop .cp (.store .word (.addr16 addr) rs)
  | .cpWToAddr32 addr rs => encodeBop .cp (.store .word (.addr32 addr) rs)
  | .cpWToInd rd off rs => encodeBop .cp (.store .word (.ind rd off) rs)
  | .cpBToAddr16 addr rs => encodeBop .cp (.store .byte (.addr16 addr) rs)
  | .cpBToAddr32 addr rs => encodeBop .cp (.store .byte (.addr32 addr) rs)
  | .cpBToInd rd off rs => encodeBop .cp (.store .byte (.ind rd off) rs)
  | .cpMemImm32 rd imm => encodeBop .cp (.memImm32 rd imm)
  | .cpMemSimm16 rd imm => encodeBop .cp (.memSimm16 rd imm)
  | .cpWMemImm16 rd imm => encodeBop .cp (.memWImm16 rd imm)
  | .cpBMemImm8 rd imm => encodeBop .cp (.memBImm8 rd imm)
  | .tmImm32 rd imm => encodeBop .tm (.imm32 rd imm)
  | .tmUimm16 rd imm => encodeBop .tm (.uimm16 rd imm)
  | .tmReg rd rs => encodeBop .tm (.reg rd rs)
  | .tmAddr16 rd addr => encodeBop .tm (.load .q rd (.addr16 addr))
  | .tmAddr32 rd addr => encodeBop .tm (.load .q rd (.addr32 addr))
  | .tmInd rd rs off => encodeBop .tm (.load .q rd (.ind rs off))
  | .tmSWAddr16 rd addr => encodeBop .tm (.load .sw rd (.addr16 addr))
  | .tmSWAddr32 rd addr => encodeBop .tm (.load .sw rd (.addr32 addr))
  | .tmSWInd rd rs off => encodeBop .tm (.load .sw rd (.ind rs off))
  | .tmUWAddr16 rd addr => encodeBop .tm (.load .uw rd (.addr16 addr))
  | .tmUWAddr32 rd addr => encodeBop .tm (.load .uw rd (.addr32 addr))
  | .tmUWInd rd rs off => encodeBop .tm (.load .uw rd (.ind rs off))
  | .tmSBAddr16 rd addr => encodeBop .tm (.load .sb rd (.addr16 addr))
  | .tmSBAddr32 rd addr => encodeBop .tm (.load .sb rd (.addr32 addr))
  | .tmSBInd rd rs off => encodeBop .tm (.load .sb rd (.ind rs off))
  | .tmUBAddr16 rd addr => encodeBop .tm (.load .ub rd (.addr16 addr))
  | .tmUBAddr32 rd addr => encodeBop .tm (.load .ub rd (.addr32 addr))
  | .tmUBInd rd rs off => encodeBop .tm (.load .ub rd (.ind rs off))
  | .tmToAddr16 addr rs => encodeBop .tm (.store .quad (.addr16 addr) rs)
  | .tmToAddr32 addr rs => encodeBop .tm (.store .quad (.addr32 addr) rs)
  | .tmToInd rd off rs => encodeBop .tm (.store .quad (.ind rd off) rs)
  | .tmWToAddr16 addr rs => encodeBop .tm (.store .word (.addr16 addr) rs)
  | .tmWToAddr32 addr rs => encodeBop .tm (.store .word (.addr32 addr) rs)
  | .tmWToInd rd off rs => encodeBop .tm (.store .word (.ind rd off) rs)
  | .tmBToAddr16 addr rs => encodeBop .tm (.store .byte (.addr16 addr) rs)
  | .tmBToAddr32 addr rs => encodeBop .tm (.store .byte (.addr32 addr) rs)
  | .tmBToInd rd off rs => encodeBop .tm (.store .byte (.ind rd off) rs)
  | .tmMemImm32 rd imm => encodeBop .tm (.memImm32 rd imm)
  | .tmMemSimm16 rd imm => encodeBop .tm (.memSimm16 rd imm)
  | .tmWMemImm16 rd imm => encodeBop .tm (.memWImm16 rd imm)
  | .tmBMemImm8 rd imm => encodeBop .tm (.memBImm8 rd imm)
  | .tcmImm32 rd imm => encodeBop .tcm (.imm32 rd imm)
  | .tcmUimm16 rd imm => encodeBop .tcm (.uimm16 rd imm)
  | .tcmReg rd rs => encodeBop .tcm (.reg rd rs)
  | .tcmAddr16 rd addr => encodeBop .tcm (.load .q rd (.addr16 addr))
  | .tcmAddr32 rd addr => encodeBop .tcm (.load .q rd (.addr32 addr))
  | .tcmInd rd rs off => encodeBop .tcm (.load .q rd (.ind rs off))
  | .tcmSWAddr16 rd addr => encodeBop .tcm (.load .sw rd (.addr16 addr))
  | .tcmSWAddr32 rd addr => encodeBop .tcm (.load .sw rd (.addr32 addr))
  | .tcmSWInd rd rs off => encodeBop .tcm (.load .sw rd (.ind rs off))
  | .tcmUWAddr16 rd addr => encodeBop .tcm (.load .uw rd (.addr16 addr))
  | .tcmUWAddr32 rd addr => encodeBop .tcm (.load .uw rd (.addr32 addr))
  | .tcmUWInd rd rs off => encodeBop .tcm (.load .uw rd (.ind rs off))
  | .tcmSBAddr16 rd addr => encodeBop .tcm (.load .sb rd (.addr16 addr))
  | .tcmSBAddr32 rd addr => encodeBop .tcm (.load .sb rd (.addr32 addr))
  | .tcmSBInd rd rs off => encodeBop .tcm (.load .sb rd (.ind rs off))
  | .tcmUBAddr16 rd addr => encodeBop .tcm (.load .ub rd (.addr16 addr))
  | .tcmUBAddr32 rd addr => encodeBop .tcm (.load .ub rd (.addr32 addr))
  | .tcmUBInd rd rs off => encodeBop .tcm (.load .ub rd (.ind rs off))
  | .tcmToAddr16 addr rs => encodeBop .tcm (.store .quad (.addr16 addr) rs)
  | .tcmToAddr32 addr rs => encodeBop .tcm (.store .quad (.addr32 addr) rs)
  | .tcmToInd rd off rs => encodeBop .tcm (.store .quad (.ind rd off) rs)
  | .tcmWToAddr16 addr rs => encodeBop .tcm (.store .word (.addr16 addr) rs)
  | .tcmWToAddr32 addr rs => encodeBop .tcm (.store .word (.addr32 addr) rs)
  | .tcmWToInd rd off rs => encodeBop .tcm (.store .word (.ind rd off) rs)
  | .tcmBToAddr16 addr rs => encodeBop .tcm (.store .byte (.addr16 addr) rs)
  | .tcmBToAddr32 addr rs => encodeBop .tcm (.store .byte (.addr32 addr) rs)
  | .tcmBToInd rd off rs => encodeBop .tcm (.store .byte (.ind rd off) rs)
  | .tcmMemImm32 rd imm => encodeBop .tcm (.memImm32 rd imm)
  | .tcmMemSimm16 rd imm => encodeBop .tcm (.memSimm16 rd imm)
  | .tcmWMemImm16 rd imm => encodeBop .tcm (.memWImm16 rd imm)
  | .tcmBMemImm8 rd imm => encodeBop .tcm (.memBImm8 rd imm)
  | .addReg3 rd rs1 rs2 => [0x2#4 ++ rd ++ rs1 ++ rs2]
  | .addSimm8 rd imm => [0x8#4 ++ rd ++ imm]
  | .cpSimm8 rd imm => [0x9#4 ++ rd ++ imm]
  | .clrAddr16 addr => encodeUop .clr .quad (.addr16 addr)
  | .clrAddr32 addr => encodeUop .clr .quad (.addr32 addr)
  | .clrMem rd => encodeUop .clr .quad (.mem rd)
  | .clrInd rd off => encodeUop .clr .quad (.ind rd off)
  | .clrWAddr16 addr => encodeUop .clr .word (.addr16 addr)
  | .clrWAddr32 addr => encodeUop .clr .word (.addr32 addr)
  | .clrWMem rd => encodeUop .clr .word (.mem rd)
  | .clrWInd rd off => encodeUop .clr .word (.ind rd off)
  | .clrBAddr16 addr => encodeUop .clr .byte (.addr16 addr)
  | .clrBAddr32 addr => encodeUop .clr .byte (.addr32 addr)
  | .clrBMem rd => encodeUop .clr .byte (.mem rd)
  | .clrBInd rd off => encodeUop .clr .byte (.ind rd off)
  | .cpzAddr16 addr => encodeUop .cpz .quad (.addr16 addr)
  | .cpzAddr32 addr => encodeUop .cpz .quad (.addr32 addr)
  | .cpzMem rd => encodeUop .cpz .quad (.mem rd)
  | .cpzInd rd off => encodeUop .cpz .quad (.ind rd off)
  | .cpzWAddr16 addr => encodeUop .cpz .word (.addr16 addr)
  | .cpzWAddr32 addr => encodeUop .cpz .word (.addr32 addr)
  | .cpzWMem rd => encodeUop .cpz .word (.mem rd)
  | .cpzWInd rd off => encodeUop .cpz .word (.ind rd off)
  | .cpzBAddr16 addr => encodeUop .cpz .byte (.addr16 addr)
  | .cpzBAddr32 addr => encodeUop .cpz .byte (.addr32 addr)
  | .cpzBMem rd => encodeUop .cpz .byte (.mem rd)
  | .cpzBInd rd off => encodeUop .cpz .byte (.ind rd off)
  | .incAddr16 addr => encodeUop .inc .quad (.addr16 addr)
  | .incAddr32 addr => encodeUop .inc .quad (.addr32 addr)
  | .incMem rd => encodeUop .inc .quad (.mem rd)
  | .incInd rd off => encodeUop .inc .quad (.ind rd off)
  | .incWAddr16 addr => encodeUop .inc .word (.addr16 addr)
  | .incWAddr32 addr => encodeUop .inc .word (.addr32 addr)
  | .incWMem rd => encodeUop .inc .word (.mem rd)
  | .incWInd rd off => encodeUop .inc .word (.ind rd off)
  | .incBAddr16 addr => encodeUop .inc .byte (.addr16 addr)
  | .incBAddr32 addr => encodeUop .inc .byte (.addr32 addr)
  | .incBMem rd => encodeUop .inc .byte (.mem rd)
  | .incBInd rd off => encodeUop .inc .byte (.ind rd off)
  | .decAddr16 addr => encodeUop .dec .quad (.addr16 addr)
  | .decAddr32 addr => encodeUop .dec .quad (.addr32 addr)
  | .decMem rd => encodeUop .dec .quad (.mem rd)
  | .decInd rd off => encodeUop .dec .quad (.ind rd off)
  | .decWAddr16 addr => encodeUop .dec .word (.addr16 addr)
  | .decWAddr32 addr => encodeUop .dec .word (.addr32 addr)
  | .decWMem rd => encodeUop .dec .word (.mem rd)
  | .decWInd rd off => encodeUop .dec .word (.ind rd off)
  | .decBAddr16 addr => encodeUop .dec .byte (.addr16 addr)
  | .decBAddr32 addr => encodeUop .dec .byte (.addr32 addr)
  | .decBMem rd => encodeUop .dec .byte (.mem rd)
  | .decBInd rd off => encodeUop .dec .byte (.ind rd off)
  | .ldPc rd off => encodeLoad .q rd (.pc off)
  | .ldAddr16 rd addr => encodeLoad .q rd (.addr16 addr)
  | .ldAddr32 rd addr => encodeLoad .q rd (.addr32 addr)
  | .ldMem rd rs => encodeLoad .q rd (.mem rs)
  | .ldPostInc rd rs => encodeLoad .q rd (.postInc rs)
  | .ldInd rd rs off => encodeLoad .q rd (.ind rs off)
  | .ldFp rd off => encodeLoad .q rd (.fp off)
  | .ldUBPc rd off => encodeLoad .ub rd (.pc off)
  | .ldUBAddr16 rd addr => encodeLoad .ub rd (.addr16 addr)
  | .ldUBAddr32 rd addr => encodeLoad .ub rd (.addr32 addr)
  | .ldUBMem rd rs => encodeLoad .ub rd (.mem rs)
  | .ldUBPostInc rd rs => encodeLoad .ub rd (.postInc rs)
  | .ldUBInd rd rs off => encodeLoad .ub rd (.ind rs off)
  | .ldUBFp rd off => encodeLoad .ub rd (.fp off)
  | .ldUWPc rd off => encodeLoad .uw rd (.pc off)
  | .ldUWAddr16 rd addr => encodeLoad .uw rd (.addr16 addr)
  | .ldUWAddr32 rd addr => encodeLoad .uw rd (.addr32 addr)
  | .ldUWMem rd rs => encodeLoad .uw rd (.mem rs)
  | .ldUWPostInc rd rs => encodeLoad .uw rd (.postInc rs)
  | .ldUWInd rd rs off => encodeLoad .uw rd (.ind rs off)
  | .ldUWFp rd off => encodeLoad .uw rd (.fp off)
  | .ldSBPc rd off => encodeLoad .sb rd (.pc off)
  | .ldSBAddr16 rd addr => encodeLoad .sb rd (.addr16 addr)
  | .ldSBAddr32 rd addr => encodeLoad .sb rd (.addr32 addr)
  | .ldSBMem rd rs => encodeLoad .sb rd (.mem rs)
  | .ldSBPostInc rd rs => encodeLoad .sb rd (.postInc rs)
  | .ldSBInd rd rs off => encodeLoad .sb rd (.ind rs off)
  | .ldSBFp rd off => encodeLoad .sb rd (.fp off)
  | .ldSWPc rd off => encodeLoad .sw rd (.pc off)
  | .ldSWAddr16 rd addr => encodeLoad .sw rd (.addr16 addr)
  | .ldSWAddr32 rd addr => encodeLoad .sw rd (.addr32 addr)
  | .ldSWMem rd rs => encodeLoad .sw rd (.mem rs)
  | .ldSWPostInc rd rs => encodeLoad .sw rd (.postInc rs)
  | .ldSWInd rd rs off => encodeLoad .sw rd (.ind rs off)
  | .ldSWFp rd off => encodeLoad .sw rd (.fp off)
  | .ldToAddr16 addr rs => encodeStore .quad (.addr16 addr) rs
  | .ldToAddr32 addr rs => encodeStore .quad (.addr32 addr) rs
  | .ldToMem rd rs => encodeStore .quad (.mem rd) rs
  | .ldToPre rd rs => encodeStore .quad (.preDec rd) rs
  | .ldToPost rd rs => encodeStore .quad (.postInc rd) rs
  | .ldToInd rd off rs => encodeStore .quad (.ind rd off) rs
  | .ldToFp off rs => encodeStore .quad (.fp off) rs
  | .ldWToAddr16 addr rs => encodeStore .word (.addr16 addr) rs
  | .ldWToAddr32 addr rs => encodeStore .word (.addr32 addr) rs
  | .ldWToMem rd rs => encodeStore .word (.mem rd) rs
  | .ldWToPre rd rs => encodeStore .word (.preDec rd) rs
  | .ldWToPost rd rs => encodeStore .word (.postInc rd) rs
  | .ldWToInd rd off rs => encodeStore .word (.ind rd off) rs
  | .ldWToFp off rs => encodeStore .word (.fp off) rs
  | .ldBToAddr16 addr rs => encodeStore .byte (.addr16 addr) rs
  | .ldBToAddr32 addr rs => encodeStore .byte (.addr32 addr) rs
  | .ldBToMem rd rs => encodeStore .byte (.mem rd) rs
  | .ldBToPre rd rs => encodeStore .byte (.preDec rd) rs
  | .ldBToPost rd rs => encodeStore .byte (.postInc rd) rs
  | .ldBToInd rd off rs => encodeStore .byte (.ind rd off) rs
  | .ldBToFp off rs => encodeStore .byte (.fp off) rs
  | .ldMemImm32 rd imm => encodeStoreImm .mem rd (.imm32 imm)
  | .ldPreImm32 rd imm => encodeStoreImm .preDec rd (.imm32 imm)
  | .ldPostImm32 rd imm => encodeStoreImm .postInc rd (.imm32 imm)
  | .ldMemSimm16 rd imm => encodeStoreImm .mem rd (.simm16 imm)
  | .ldPreSimm16 rd imm => encodeStoreImm .preDec rd (.simm16 imm)
  | .ldPostSimm16 rd imm => encodeStoreImm .postInc rd (.simm16 imm)
  | .ldWMemImm16 rd imm => encodeStoreImm .mem rd (.wImm16 imm)
  | .ldWPreImm16 rd imm => encodeStoreImm .preDec rd (.wImm16 imm)
  | .ldWPostImm16 rd imm => encodeStoreImm .postInc rd (.wImm16 imm)
  | .ldBMemImm8 rd imm => encodeStoreImm .mem rd (.bImm8 imm)
  | .ldBPreImm8 rd imm => encodeStoreImm .preDec rd (.bImm8 imm)
  | .ldBPostImm8 rd imm => encodeStoreImm .postInc rd (.bImm8 imm)
  | .ldSimm8 rd imm => [0x3#4 ++ rd ++ imm]
  | .ldSimm17 rd imm => [0x45#8 ++ 0#3 ++ imm.extractLsb' 16 1 ++ rd, imm.extractLsb' 0 16]
  | .ldImm32 rd imm => (0x452#12 ++ rd) :: quadWords imm
  | .ldReg rd rs => [0x44#8 ++ rs ++ rd]
  | .ldCc cc rd => [0x01#8 ++ cc ++ rd]
  | .ldes rd => [0x453#12 ++ rd]
  | .leaPc rd off => [0x002#12 ++ rd, 0b10#2 ++ off]
  | .leaInd rd rs off => [0x48#8 ++ rs ++ rd, 0b10#2 ++ off]
  | .leaFp rd off => [0b010011#6 ++ off ++ rd]
  | .extUB rd rs => [0x40#8 ++ rs ++ rd]
  | .extUW rd rs => [0x41#8 ++ rs ++ rd]
  | .extSB rd rs => [0x42#8 ++ rs ++ rd]
  | .extSW rd rs => [0x43#8 ++ rs ++ rd]
  | .com rd => [0x454#12 ++ rd]
  | .neg rd => [0x455#12 ++ rd]
  | .pushBImm8 imm => [0x0A#8 ++ imm]
  | .pushWSimm8 imm => [0x0C#8 ++ imm]
  | .pushSimm8 imm => [0x0D#8 ++ imm]
  | .pop rd => [0x13F#12 ++ rd]
  | .popUB rd => [0x19F#12 ++ rd]
  | .popUW rd => [0x1BF#12 ++ rd]
  | .popSB rd => [0x1DF#12 ++ rd]
  | .popSW rd => [0x1FF#12 ++ rd]
  | .pushmLo mask => [0x04#8 ++ mask]
  | .pushmHi mask => [0x05#8 ++ mask]
  | .popmLo mask => [0x06#8 ++ mask]
  | .popmHi mask => [0x07#8 ++ mask]
  | .pushf => [0x0002#16]
  | .popf => [0x0003#16]
  | .link imm => [0x08#8 ++ imm]
  | .unlink => [0x0001#16]
  | .udiv rd rs => [0xAE#8 ++ rs ++ rd]
  | .sdiv rd rs => [0xAF#8 ++ rs ++ rd]
  | .umul rd rs => [0xB0#8 ++ rs ++ rd]
  | .smul rd rs => [0xB1#8 ++ rs ++ rd]
  | .mul rd rs => [0xB2#8 ++ rs ++ rd]
  | .sraReg rd rs => [0xB4#8 ++ rs ++ rd]
  | .srlReg rd rs => [0xB5#8 ++ rs ++ rd]
  | .sllReg rd rs => [0xB6#8 ++ rs ++ rd]
  | .rlReg rd rs => [0xB7#8 ++ rs ++ rd]
  | .sraImm rd imm => [0xB#4 ++ 0b100#3 ++ imm ++ rd]
  | .srlImm rd imm => [0xB#4 ++ 0b101#3 ++ imm ++ rd]
  | .sllImm rd imm => [0xB#4 ++ 0b110#3 ++ imm ++ rd]
  | .rlImm rd imm => [0xB#4 ++ 0b111#3 ++ imm ++ rd]
  | .jpRel12 rel => [0xC#4 ++ rel]
  | .jpRel24 rel => [0xF0#8 ++ rel.extractLsb' 16 8, rel.extractLsb' 0 16]
  | .jpInd rs => [0xF20#12 ++ rs]
  | .jpCcRel8 cc rel => [0xE#4 ++ cc ++ rel]
  | .jpCcRel16 cc rel => [0xF22#12 ++ cc, rel]
  | .jpa imm => 0xF230#16 :: quadWords imm
  | .callRel12 rel => [0xD#4 ++ rel]
  | .callRel24 rel => [0xF1#8 ++ rel.extractLsb' 16 8, rel.extractLsb' 0 16]
  | .callInd rs => [0xF21#12 ++ rs]
  | .calla imm => 0xF231#16 :: quadWords imm
  | .djnz rd rel => [0xFD#8 ++ rel ++ rd]
  | .trap vec => [0xFE#8 ++ vec]
  | .ill => [0xFFFF#16]
  | .ret => [0xFFFC#16]
  | .iret => [0xFFFD#16]
  | .brk => [0x0000#16]
  | .atm => [0x0004#16]
  | .noflags => [0x0005#16]
  | .extend => [0x0007#16]
  | .wdt => [0xFFF7#16]
  | .stop => [0xFFF8#16]
  | .halt => [0xFFF9#16]
  | .ei => [0xFFFA#16]
  | .di => [0xFFFB#16]
  | .nop => [0xFFFE#16]
  | .cpczReg rd => [0x9#4 ++ rd ++ 0x00#8]

/-- The instruction whose words mean it only behind the Extend prefix: CPCZ Rd (R189). -/
def needsExtend : Instr → Bool
  | .cpczReg _ => true
  | _ => false

/-- The bytes of an instruction, lowest address first (R121). -/
def encodeBytes (i : Instr) : List Byte := (encode i).flatMap wordBytes

/-! ### The host's numbering of an instruction's bits -/

/-- The words of an instruction given as a number of `nbits` bits. Bit 0 is the least significant bit of the first word and
later words follow above it. Where that reading has bits beyond the first word's own length, the number has its first word
in its most significant bits instead, as the `hi` and `lo` of spec/opcode_table.json count (log entry 30). Bits above
`nbits` are 0 and three words are given, the longest length (R120). -/
def tableWords (nbits w : Nat) : List Word :=
  let v := w % 2 ^ nbits
  let words : List Word := [BitVec.ofNat 16 v, BitVec.ofNat 16 (v / 2 ^ 16), BitVec.ofNat 16 (v / 2 ^ 32)]
  let n := (nbits + 15) / 16
  if n ≤ instrWords (BitVec.ofNat 16 v) then words
  else ((words.take n).reverse ++ [0#16, 0#16, 0#16]).take 3

/-- The instruction the decoder reads from an instruction given as a number of `nbits` bits, laid out as the hardware
stores it (R121), the Extend latch clear. -/
noncomputable def decodeTableWord (nbits w : Nat) : Option Instr :=
  match decode false ((tableWords nbits w).flatMap wordBytes) with
  | .whole (.instr i) => some i
  | _ => none

end Sys2Proof
end

