-- ==== Sys2Proof/Machine/Flags.lean ====
section
/-! DEFINITION. The FLAGS byte, the flag functions of the arithmetic, logical, shift and load families, and the condition
codes (R39 to R48, R200 to R203, R290). Every function is over a data width `n`, which is 8, 16 or 32. -/

namespace Sys2Proof.Machine

/-! ### The bits of FLAGS (R40) -/

/-- Carry, bit 7. -/
def flagC (f : Byte) : Bool := f.getLsbD 7
/-- Zero, bit 6. -/
def flagZ (f : Byte) : Bool := f.getLsbD 6
/-- Sign, bit 5. -/
def flagS (f : Byte) : Bool := f.getLsbD 5
/-- Overflow, bit 4. -/
def flagV (f : Byte) : Bool := f.getLsbD 4
/-- Blank, bit 3. -/
def flagB (f : Byte) : Bool := f.getLsbD 3
/-- User Flag, bit 2. -/
def flagF1 (f : Byte) : Bool := f.getLsbD 2
/-- Chained Interrupt Enable, bit 1. -/
def flagCirqe (f : Byte) : Bool := f.getLsbD 1
/-- Master Interrupt Enable, bit 0. -/
def flagIrqe (f : Byte) : Bool := f.getLsbD 0

/-- FLAGS with one bit replaced. -/
def putBit (i : Nat) (b : Bool) (f : Byte) : Byte :=
  if b then f ||| (1#8 <<< i) else f &&& ~~~(1#8 <<< i)

/-- FLAGS with CIRQE replaced. -/
def setCirqe (b : Bool) (f : Byte) : Byte := putBit 1 b f
/-- FLAGS with IRQE replaced. -/
def setIrqe (b : Bool) (f : Byte) : Byte := putBit 0 b f

/-- What an instruction writes to the condition flags: a value, or none for a flag it leaves unchanged (R49). -/
structure FlagPatch where
  c : Option Bool
  z : Option Bool
  s : Option Bool
  v : Option Bool
  b : Option Bool
deriving DecidableEq, Repr

/-- Replace a bit where a value is given. -/
def putOpt (i : Nat) (o : Option Bool) (f : Byte) : Byte :=
  match o with
  | none => f
  | some b => putBit i b f

/-- FLAGS after a patch: F1, CIRQE and IRQE are never part of it (R47). -/
def applyPatch (p : FlagPatch) (f : Byte) : Byte :=
  putOpt 7 p.c (putOpt 6 p.z (putOpt 5 p.s (putOpt 4 p.v (putOpt 3 p.b f))))

/-! ### Arithmetic -/

/-- The result of an addition or a subtraction with its flags. -/
structure ArithResult (n : Nat) where
  r : BitVec n
  c : Bool
  z : Bool
  s : Bool
  v : Bool
deriving DecidableEq, Repr

/-- A carry or a borrow as a number. -/
def carryNat (c : Bool) : Nat := if c then 1 else 0

/-- `AddFlags(a, b, cin, n)` (R200). -/
def addFlags {n : Nat} (a b : BitVec n) (cin : Bool) : ArithResult n :=
  let full := a.toNat + b.toNat + carryNat cin
  let r := BitVec.ofNat n full
  { r := r, c := decide (2 ^ n ≤ full), z := r == 0#n, s := r.msb
    v := a.msb == b.msb && r.msb != a.msb }

/-- `SubFlags(a, b, bin, n)`: a is the minuend (R201). -/
def subFlags {n : Nat} (a b : BitVec n) (bin : Bool) : ArithResult n :=
  let r := a - b - BitVec.ofNat n (carryNat bin)
  { r := r, c := decide (a.toNat < b.toNat + carryNat bin), z := r == 0#n, s := r.msb
    v := a.msb != b.msb && r.msb == b.msb }

/-- Blank of one operand (R202 (b)). -/
def blank1 {n : Nat} (a : BitVec n) : Bool := a == 0#n

/-- Blank of two operands (R202 (b)). -/
def blank2 {n : Nat} (a b : BitVec n) : Bool := a == 0#n || b == 0#n

/-- The five flags of an arithmetic result. Behind the Extend prefix Z is sticky: it stays 1 only if it was 1 (R202 (a)). -/
def arithPatch {n : Nat} (x : ArithResult n) (sticky zOld blank : Bool) : FlagPatch where
  c := some x.c
  z := some (if sticky then zOld && x.z else x.z)
  s := some x.s
  v := some x.v
  b := some blank

/-- `LogicFlags(r, a, b, n)`: C unchanged, V 0 (R203). -/
def logicPatch {n : Nat} (r a b : BitVec n) : FlagPatch where
  c := none
  z := some (r == 0#n)
  s := some r.msb
  v := some false
  b := some (blank2 a b)

/-- The flags of a multiply or divide: C unchanged, B 0, V as given (R230 to R235). -/
def productPatch {n : Nat} (r : BitVec n) (v : Bool) : FlagPatch where
  c := none
  z := some (r == 0#n)
  s := some r.msb
  v := some v
  b := some false

/-- The flags of a shift or rotate with result r and last bit out c: V is C XOR S, B 0 (R290). -/
def shiftPatch (r : Quad) (c : Bool) : FlagPatch where
  c := some c
  z := some (r == 0#32)
  s := some r.msb
  v := some (c != r.msb)
  b := some false

/-- The flags of EXT: C and V unchanged, B 0 (R345). -/
def extPatch (r : Quad) : FlagPatch where
  c := none
  z := some (r == 0#32)
  s := some r.msb
  v := none
  b := some false

/-- The flags of COM: C and V 0 (R266). -/
def comPatch (a r : Quad) : FlagPatch where
  c := some false
  z := some (r == 0#32)
  s := some r.msb
  v := some false
  b := some (blank1 a)

/-- The flags of a load from memory, a POP and a POPM: B only (R319, R364, R374). -/
def blankPatch (b : Bool) : FlagPatch where
  c := none
  z := none
  s := none
  v := none
  b := some b

/-- The value and the flags of a binary operation on a destination value a and a source value b, with FLAGS as before the
instruction and the Extend latch (R205 to R213, R260 to R263, R281, R282). The latch changes ADD, SUB and CP only (R181). -/
def bopCompute {n : Nat} (op : Bop) (ext : Bool) (f : Byte) (a b : BitVec n) : BitVec n × FlagPatch :=
  match op with
  | .add => let x := addFlags a b (ext && flagC f); (x.r, arithPatch x ext (flagZ f) (blank2 a b))
  | .sub => let x := subFlags a b (ext && flagC f); (x.r, arithPatch x ext (flagZ f) (blank2 a b))
  | .and => let r := a &&& b; (r, logicPatch r a b)
  | .or => let r := a ||| b; (r, logicPatch r a b)
  | .xor => let r := a ^^^ b; (r, logicPatch r a b)
  | .cp => let x := subFlags a b (ext && flagC f); (x.r, arithPatch x ext (flagZ f) (blank2 a b))
  | .tm => let r := a &&& b; (r, logicPatch r a b)
  | .tcm => let r := ~~~a &&& b; (r, logicPatch r a b)

/-- The binary operations that write their destination: all but CP, TM and TCM (R204). -/
def bopWrites : Bop → Bool
  | .cp => false
  | .tm => false
  | .tcm => false
  | _ => true

/-- The value and the flags of a unary operation on a value a, with FLAGS as before the instruction and the Extend latch,
which changes CPZ only (R181, R214 to R217). CLR writes no flag (R350). -/
def uopCompute {n : Nat} (op : Uop) (ext : Bool) (f : Byte) (a : BitVec n) : BitVec n × FlagPatch :=
  match op with
  | .clr => (0#n, ⟨none, none, none, none, none⟩)
  | .cpz => let x := subFlags a 0#n (ext && flagC f); (x.r, arithPatch x ext (flagZ f) true)
  | .inc => let x := addFlags a 1#n false; (x.r, arithPatch x false false (blank1 a))
  | .dec => let x := subFlags a 1#n false; (x.r, arithPatch x false false (blank1 a))

/-! ### Shifts -/

/-- The result of a shift or rotate of a by n, and the last bit out; count 0 leaves a unchanged with C 0 (R291 to R295, D5). -/
def shiftCompute (op : ShiftOp) (a : Quad) (n : Nat) : Quad × Bool :=
  match op with
  | .sra => (a.sshiftRight n, decide (0 < n) && a.getLsbD (n - 1))
  | .srl => (a >>> n, decide (0 < n) && a.getLsbD (n - 1))
  | .sll => (a <<< n, decide (0 < n) && a.getLsbD (32 - n))
  | .rl => let r := a <<< n ||| a >>> (32 - n); (if n = 0 then a else r, decide (0 < n) && r.getLsbD 0)

/-- The bits an extended shift moves into the source register (R296 to R299). -/
def shiftOut (op : ShiftOp) (a : Quad) (n : Nat) : Quad :=
  if n = 0 then 0#32
  else
    match op with
    | .sll => a >>> (32 - n)
    | _ => a <<< (32 - n)

/-! ### Condition codes -/

/-- `cond(cc)` over FLAGS (R48). -/
def cond (cc : CC) (f : Byte) : Bool :=
  let lt := flagS f != flagV f
  match cc.toNat with
  | 0x0 => flagB f
  | 0x1 => lt
  | 0x2 => flagZ f || lt
  | 0x3 => flagC f || flagZ f
  | 0x4 => flagV f
  | 0x5 => flagS f
  | 0x6 => flagZ f
  | 0x7 => flagC f
  | 0x8 => !flagB f
  | 0x9 => !lt
  | 0xA => !(flagZ f || lt)
  | 0xB => !(flagC f || flagZ f)
  | 0xC => !flagV f
  | 0xD => !flagS f
  | 0xE => !flagZ f
  | _ => !flagC f

end Sys2Proof.Machine
end

