-- ==== Sys2Proof/Config.lean ====
section
/-! DEFINITION. What the source leaves to the device (R9; section 2 of spec/92_eei_decisions.md), as plain data. State holds
one Device, which no step changes, so a statement about every state is a statement about every device. `Device.default`
has the values the spec names as defaults; what it adds where the spec names none is in log entries 6, 7, 8 and 51.
Nothing the spec defines leaves a value open while the machine goes on, so there is no free value here. -/

namespace Sys2Proof

/-- `ADDR_BITS`: how many low address bits select a byte (R81, D2). -/
inductive AddrWidth where
  | bits24 | bits32
deriving DecidableEq, Repr

/-- The number of distinct byte addresses (R81). -/
def AddrWidth.space : AddrWidth → Nat
  | .bits24 => 0x1000000
  | .bits32 => 0x100000000

/-- The first byte address of the I/O block, which is the last 8 KB (R87). -/
def AddrWidth.ioBase : AddrWidth → Nat
  | .bits24 => 0xFFE000
  | .bits32 => 0xFFFFE000

/-- What serves a range of addresses outside the I/O block (R82). -/
inductive RegionKind where
  /-- Internal non-volatile memory: a store is outside the specified behaviour (R85). -/
  | nonVolatile
  /-- Internal RAM (R86). -/
  | ram
  /-- External memory present on the external bus (R89). -/
  | external
deriving DecidableEq, Repr

/-- One entry of `MEM_MAP` (R9, R83): the physical addresses from `base` up to, not including, `base + size`. -/
structure Region where
  base : Nat
  size : Nat
  kind : RegionKind
deriving DecidableEq, Repr

/-- A part of the I/O block that a peripheral's registers occupy: byte offsets from FFFF_E000H (R87). -/
structure IoWindow where
  offset : Nat
  size : Nat
deriving DecidableEq, Repr

/-- `SYSEXCP_ADDR` and `SYSEXCP_BITPOS` (R9, R54): the register's byte offset in the I/O block, its size in bytes, and the
position of each bit, counted from the least significant bit of the whole big-endian register. -/
structure SysExcpLayout where
  offset : Nat
  bytes : Nat
  pcovf : Nat
  spovf : Nat
  div0 : Nat
  divovf : Nat
  ill : Nat
deriving DecidableEq, Repr

/-- One interrupt source: `IRQ_VECTOR_ADDR(n)`, the address of its vector quad (R9), and whether its requests are
nonmaskable (R518, D31). -/
structure IrqSource where
  vectorAddr : Quad
  nonmaskable : Bool
deriving DecidableEq, Repr

/-- A range of physical addresses: `base` up to, not including, `base + size`. -/
structure AddrRange where
  base : Nat
  size : Nat
deriving DecidableEq, Repr

/-- What an acceptable interrupt request does to a CPU in Halt or in Stop mode: `HALT_STOP_MODEL` (R9, R545, D28). -/
inductive WakeRule where
  /-- It wakes the CPU and is entered, the default of D28. -/
  | enter
  /-- It resets the device: "whether leaving Stop mode is in fact a reset" belongs to the device (R545, R600). -/
  | reset
  /-- Nothing: only the reset event ends the mode. -/
  | stay
deriving DecidableEq, Repr

/-- The device parameters (R9). -/
structure Device where
  /-- `ADDR_BITS`. -/
  addrWidth : AddrWidth
  /-- `MEM_MAP` outside the I/O block; the first region that has an address serves it, an address in none is unavailable. -/
  memMap : List Region
  /-- `MEM_MAP` in the I/O block: the places of peripheral registers, whose behaviour the spec does not give. -/
  peripherals : List IoWindow
  /-- `RESET_VECTOR_ADDR` (D3). -/
  resetVector : Quad
  /-- `SYSEXC_CLEARS_IRQE` (D11). -/
  sysexcClearsIrqe : Bool
  /-- `OCD_BRK_ENABLED` (D29). -/
  ocdBreaks : Bool
  /-- `SYSEXCP_ADDR`, `SYSEXCP_BITPOS`; none keeps the five bits as abstract state (R54). -/
  sysexcpLayout : Option SysExcpLayout
  /-- `EXTRA_SYSEXC`: the further system exceptions, each named by the position of its SYSEXCP bit (R532). -/
  extraSysExc : List Nat
  /-- `N_IRQ` and `IRQ_VECTOR_ADDR(n)`: the interrupt sources, source n at index n (R9, R500). -/
  irqSources : List IrqSource
  /-- `HALT_STOP_MODEL` for Halt mode. -/
  haltWake : WakeRule
  /-- `HALT_STOP_MODEL` for Stop mode. -/
  stopWake : WakeRule
  /-- `WDT_MODEL` and `WDT_PERIOD`; none is a device without the timer (D35). -/
  wdtPeriod : Option Nat
  /-- The reset value of `wdt_enabled` (R60, D35). -/
  wdtEnabledAtReset : Bool
  /-- `DMA_MODEL`: the physical addresses that the DMA controller can reach; without any it is absent (R104, D20). -/
  dmaReach : List AddrRange
deriving DecidableEq, Repr

/-- The device with the spec's defaults (92_eei_decisions.md section 2). The memory map is the model's choice within R83:
non-volatile memory in the 32 KB that 16-bit addresses reach from 0, RAM in the 24 KB below the I/O block, and every other
address external memory that is present (log entry 6). -/
def Device.default : Device where
  addrWidth := .bits24
  memMap := [⟨0x000000, 0x8000, .nonVolatile⟩, ⟨0xFF8000, 0x6000, .ram⟩, ⟨0x008000, 0xFF0000, .external⟩]
  peripherals := []
  resetVector := 0x00000004#32
  sysexcClearsIrqe := true
  ocdBreaks := false
  sysexcpLayout := none
  extraSysExc := []
  irqSources := []
  haltWake := .enter
  stopWake := .enter
  wdtPeriod := none
  wdtEnabledAtReset := false
  dmaReach := []

end Sys2Proof
end

