-- ==== Sys2Proof/Machine/Memory.lean ====
section
/-! DEFINITION. The bytes of memory, keyed by physical address (R80), in one canonical form: addresses strictly rising, and
no entry equal to what an unlisted address reads as. -/

namespace Sys2Proof.Machine

/-- Bytes by physical address. -/
abbrev Memory := List Host.Cell

/-- What an address that is not listed reads as: FFH, the byte of unprogrammed non-volatile memory (R85, U19). For RAM and
external memory the spec gives no contents (U18); there the same byte is the model's choice (log entry 2, unsafe). -/
def erasedByte : Byte := 0xFF#8

/-- The byte at a physical address. -/
def Memory.read (p : Nat) : Memory → Byte
  | [] => erasedByte
  | (q, v) :: m => if q = p then v else Memory.read p m

/-- Put a byte at a physical address, keeping the canonical form. -/
def Memory.write (p : Nat) (v : Byte) : Memory → Memory
  | [] => if v = erasedByte then [] else [(p, v)]
  | (q, u) :: m =>
    if p < q then
      if v = erasedByte then (q, u) :: m else (p, v) :: (q, u) :: m
    else if p = q then
      if v = erasedByte then m else (p, v) :: m
    else (q, u) :: Memory.write p v m

/-- Put an address into a set of addresses, which is a rising list without repeats. -/
def noteAddress (p : Nat) : List Nat → List Nat
  | [] => [p]
  | q :: l => if p < q then p :: q :: l else if p = q then q :: l else q :: noteAddress p l

/-- The canonical form: addresses strictly rising, no entry an erased byte. -/
abbrev Memory.wf (m : Memory) : Prop :=
  m.Pairwise (fun a b => a.1 < b.1) ∧ ∀ c ∈ m, c.2 ≠ erasedByte

end Sys2Proof.Machine
end

