-- ==== Sys2Proof/Machine/State.lean ====
section
/-! DEFINITION. The machine's state as plain data (R30, R58, R59), why a step can stop, and the state after reset (R60,
R600, R601). INVENTORY.md lists every field with its rule and reset value. -/

namespace Sys2Proof.Machine

/-- A behaviour the spec treats as a fault: the platform, not the machine, left the defined behaviour (93, section intro). -/
inductive Fault where
  /-- An odd value was to become the PC from memory (RET, IRET, a TRAP, interrupt, exception or reset vector), or a fetch
  was to begin at an odd PC (R37, R420 (c), D12, U27). Raised by `loadPc` and `fetchWord`. Safe: the model stops. -/
  | oddPc
  /-- An instruction fetch in FFFF_E000H to FFFF_FFFFH, which "is not defined" (R110, U2). Raised by `fetchWord`. Safe. -/
  | fetchFromIo
  /-- An access to an unavailable external address, whose results "are undefined" (R89, D37, U1). Raised by `readMem`,
  `writeMem`, `busRead`, `busWrite` and `fetchWord`. Safe. -/
  | unavailableAddress
deriving DecidableEq, Repr

/-- A program or configuration outside the set the spec gives meaning to (treatment `refuse` of 93). -/
inductive Refusal where
  /-- The instruction with this mnemonic has no meaning in the model. Raised by Dispatch.lean only. Safe. -/
  | notModelled (mnemonic : String)
  /-- The Extend prefix before an instruction that has no extended form (R182, D7, U20). Raised by the step and by BRK. Safe. -/
  | extendUndefined
  /-- A two-result instruction whose result registers, or whose result and preserved source, are one register
  (R231 to R235, R296, D22, U23). Raised by the multiplies, divides and extended shifts. Safe. -/
  | registerOverlap
  /-- A postincrement load, POP or POPMHI into its own pointer (R318 (a), R375, D23, U24). Raised by these. Safe. -/
  | pointerOverlap
  /-- A store to an address the memory map marks read-only (R85, U7). Raised by `writeMem` and `busWrite`. Safe. -/
  | storeToNonVolatile
  /-- A fetch of a byte that was stored with no taken control transfer since (R108, D21, U29). Raised by `fetchWord`. Safe. -/
  | staleFetch
  /-- An access to a peripheral's register, whose behaviour belongs to the device (R56, R88, U6). Raised by `readMem`,
  `writeMem`, `busRead` and `busWrite`. Safe. -/
  | peripheralRegister
deriving DecidableEq, Repr

/-- The status bits of SYSEXCP: the five of R54, and those of the system exceptions that a device adds (R532). -/
structure SysExcp where
  pcovf : Bool
  spovf : Bool
  div0 : Bool
  divovf : Bool
  ill : Bool
  /-- The bits of `EXTRA_SYSEXC` that are set, by position, rising. -/
  extra : List Nat
deriving DecidableEq, Repr

/-- A request the Interrupt Controller presents: its source, the address of its vector quad, and whether it is
nonmaskable (R500, R518). -/
structure IrqRequest where
  source : Nat
  vectorAddr : Quad
  nonmaskable : Bool
deriving DecidableEq, Repr

/-- One byte access of the DMA controller: a read, or a write of a value that the device gives (R104, D20). -/
inductive DmaAccess where
  | read (a : Quad)
  | write (a : Quad) (v : Byte)
deriving DecidableEq, Repr

/-- The run mode (R59 (d)). -/
inductive RunMode where
  | running | halt | stop | debugBreak
deriving DecidableEq, Repr

/-- The machine's state (R30). -/
structure State where
  /-- R0 to R15 (R31). -/
  regs : Vector Quad 16
  /-- The Program Counter (R35). While an instruction executes it is the address of the next instruction (R36, D1). -/
  pc : Quad
  /-- FLAGS: C, Z, S, V, B, F1, CIRQE, IRQE from bit 7 to bit 0 (R40). -/
  flags : Byte
  /-- PCOV (R51). -/
  pcov : Quad
  /-- SPOV (R53). -/
  spov : Quad
  /-- CPUCTL.DMABW, the only state CPUCTL has (R52). -/
  dmabw : BitVec 2
  /-- The SYSEXCP status bits (R54). -/
  sysexcp : SysExcp
  /-- Memory, by physical address (R80). -/
  mem : Memory
  /-- The Extend latch (R58). -/
  extPending : Bool
  /-- The NOFLAGS latch (R58). -/
  noflagsPending : Bool
  /-- The ATM count, 0 to 3 (R58). -/
  atmCount : Nat
  /-- The requests the Interrupt Controller presents, the highest priority first (R59 (a), R500). -/
  pending : List IrqRequest
  /-- The run mode (R59 (d)). -/
  runMode : RunMode
  /-- The Watchdog Timer is enabled (R59 (e)). -/
  wdtEnabled : Bool
  /-- The Watchdog Timer's counter (R59 (e), R409). -/
  wdtCounter : Nat
  /-- The pending Stack Overflow request, internal to a step (R59 (c), R523). -/
  spovReq : Bool
  /-- The physical addresses stored to since the last taken control transfer: what the Fetch Unit may have read before
  (R59 (f), R108); a set, as a rising list. -/
  dirty : List Nat
  /-- What the DMA controller does before each of the CPU's next byte accesses, its choice in `DMA_MODEL` (R103, R104, D20). -/
  dmaPlan : List (List DmaAccess)
  /-- The bytes that the DMA controller has read, the latest first (R104). -/
  dmaSeen : List Byte
  /-- The device parameters (R9); no step changes them. -/
  dev : Device
deriving DecidableEq, Repr

/-- The machine right after reset with the default device and nothing in memory (R60, R601). The PC is the quad at the RESET
vector: memory that lists nothing reads FFH, so it is FFFF_FFFFH (R600, U46). Four kinds of item have no reset value in
the spec, so their values here are the model's choice (DESIGN CHOICE, unsafe): R0 to R15 and the flags C, Z, S, V, B are 0
(log entry 1); the Watchdog Timer's counter is 0, which is what a device without the timer reloads (log entry 41; the
enable bit is the default of D35); the Interrupt Controller presents no request (log entry 50); and the DMA controller has
planned nothing and read nothing (log entry 52). -/
def State.reset : State where
  regs := Vector.replicate 16 0#32
  pc := 0xFFFFFFFF#32
  flags := 0x00#8
  pcov := 0xFFFFFFFF#32
  spov := 0x00000000#32
  dmabw := 0b11#2
  sysexcp := ⟨false, false, false, false, false, []⟩
  mem := []
  extPending := false
  noflagsPending := false
  atmCount := 0
  pending := []
  runMode := .running
  wdtEnabled := false
  wdtCounter := 0
  spovReq := false
  dirty := []
  dmaPlan := []
  dmaSeen := []
  dev := Device.default

end Sys2Proof.Machine
end

