-- ==== Sys2Proof/Machine/Ops.lean ====
section
/-! DEFINITION. The named operations that every meaning is made of: registers, the address space, memory reads and writes,
the DMA controller and the CPU's accesses with what it does between them, the stack, writes of the PC, taking an exception
or an interrupt and returning, and instruction fetch. -/

namespace Sys2Proof.Machine

/-! ### Outcomes in sequence -/

/-- The outcome of an operation that answers a value of type α. -/
abbrev Out (α : Type) := Host.Outcome α Fault Refusal

/-- Do one operation and then another; the first stop ends it. -/
def andThen {α β : Type} (x : Out α) (k : α → Out β) : Out β :=
  match x with
  | .next a => k a
  | .fault r => .fault r
  | .refused r => .refused r

/-- A reason to stop. -/
inductive Stop where
  | fault (r : Fault)
  | refuse (r : Refusal)
deriving DecidableEq, Repr

/-- Stop if there is a reason to, else answer a value. -/
def unlessStop {α : Type} (x : Option Stop) (a : α) : Out α :=
  match x with
  | none => .next a
  | some (.fault r) => .fault r
  | some (.refuse r) => .refused r

/-! ### Registers -/

/-- `R[r]` (R16, R31). -/
def State.reg (s : State) (r : Reg) : Quad := s.regs[r.toNat]'(r.isLt)

/-- `R[r] <- v`. A write of R15 compares v with SPOV, unsigned, and requests a Stack Overflow if v is less (R16, R523). -/
def State.writeReg (s : State) (r : Reg) (v : Quad) : State :=
  { s with
    regs := s.regs.set r.toNat v r.isLt
    spovReq := s.spovReq || (r == spReg && decide (v < s.spov)) }

/-- The register after this one, R0 after R15 (R34). -/
def nextReg (r : Reg) : Reg := r + 1#4

/-- Write the condition flags an instruction sets as a result; the NOFLAGS latch suppresses it (R401, D27). -/
def State.setFlags (s : State) (p : FlagPatch) : State :=
  if s.noflagsPending then s else { s with flags := applyPatch p s.flags }

/-! ### Data sizes -/

/-- The width of a size in bits (R91). -/
def Size.bits : Size → Nat
  | .byte => 8
  | .word => 16
  | .quad => 32

/-- The width of a size in bytes (R91). -/
def Size.bytes : Size → Nat
  | .byte => 1
  | .word => 2
  | .quad => 4

/-- A size in bytes as an address increment. -/
def sizeQuad (z : Size) : Quad := BitVec.ofNat 32 (Size.bytes z)

/-! ### The address space -/

/-- Where a byte of the address space lives (R80 to R89). -/
inductive Location where
  /-- Byte i of PCOV, 0 the most significant (R50, R51). -/
  | pcov (i : Nat)
  /-- Byte i of SPOV (R50, R53). -/
  | spov (i : Nat)
  /-- FLAGS (R39). -/
  | flags
  /-- CPUCTL (R52). -/
  | cpuctl
  /-- Byte i of SYSEXCP, in the device's layout (R54). -/
  | sysexcp (l : SysExcpLayout) (i : Nat)
  /-- A peripheral's register (R56, R88). -/
  | peripheral
  /-- An I/O address without a register, the reserved control bytes among them (R55, R87). -/
  | ioUnavailable
  /-- Non-volatile memory (R85). -/
  | readOnly (p : Nat)
  /-- RAM or external memory (R86, R89). -/
  | memory (p : Nat)
  /-- An unavailable external address (R89). -/
  | unavailable
deriving DecidableEq, Repr

/-- The byte that an address selects: its low `ADDR_BITS` bits (R81). -/
def physical (d : Device) (a : Quad) : Nat := a.toNat % d.addrWidth.space

/-- The first physical address of the I/O block: FFFF_E000H, FF_E000H with 24 bits (R87). -/
def ioBase (d : Device) : Nat := d.addrWidth.ioBase

/-- Whether a byte offset lies in a window. -/
def inWindow (o start size : Nat) : Bool := decide (start ≤ o) && decide (o < start + size)

/-- What the byte at an offset of the I/O block is (R50, R54, R55, R87). -/
def locateIo (d : Device) (o : Nat) : Location :=
  if inWindow o 0x04 4 then .pcov (o - 0x04)
  else if inWindow o 0x0C 4 then .spov (o - 0x0C)
  else if o = 0x10 then .flags
  else if o = 0x12 then .cpuctl
  else
    match d.sysexcpLayout.filter (fun l => inWindow o l.offset l.bytes) with
    | some l => .sysexcp l (o - l.offset)
    | none =>
      if d.peripherals.any (fun w => inWindow o w.offset w.size) then .peripheral else .ioUnavailable

/-- What the byte at a physical address outside the I/O block is: the first region of the map that has it (R83). -/
def locateMem (d : Device) (p : Nat) : Location :=
  match d.memMap.find? (fun r => inWindow p r.base r.size) with
  | none => .unavailable
  | some r =>
    match r.kind with
    | .nonVolatile => .readOnly p
    | .ram => .memory p
    | .external => .memory p

/-- What the byte at an address is (R83). -/
def locate (d : Device) (a : Quad) : Location :=
  if ioBase d ≤ physical d a then locateIo d (physical d a - ioBase d) else locateMem d (physical d a)

/-! ### Control registers as bytes -/

/-- Byte i of a quad, 0 the most significant (R92). -/
def quadByte (v : Quad) (i : Nat) : Byte := v.extractLsb' (8 * (3 - i)) 8

/-- A quad with byte i replaced, 0 the most significant (D15). -/
def setQuadByte (v : Quad) (i : Nat) (b : Byte) : Quad :=
  match i with
  | 0 => b ++ v.extractLsb' 0 24
  | 1 => v.extractLsb' 24 8 ++ b ++ v.extractLsb' 0 16
  | 2 => v.extractLsb' 16 16 ++ b ++ v.extractLsb' 0 8
  | _ => v.extractLsb' 8 24 ++ b

/-- The number, in the whole SYSEXCP register, of the least significant bit of its byte i (R54). -/
def sysExcpBase (l : SysExcpLayout) (i : Nat) : Nat := 8 * (l.bytes - 1 - i)

/-- One status bit as it stands in a byte whose least significant bit has this number. -/
def statusBit (base pos : Nat) (b : Bool) : Byte :=
  if b && inWindow pos base 8 then 1#8 <<< (pos - base) else 0#8

/-- Byte i of SYSEXCP as it reads (R54); bits without a status bit read 0 (log entry 8). -/
def sysExcpByte (l : SysExcpLayout) (x : SysExcp) (i : Nat) : Byte :=
  let base := sysExcpBase l i
  statusBit base l.pcovf x.pcovf ||| statusBit base l.spovf x.spovf ||| statusBit base l.div0 x.div0
    ||| statusBit base l.divovf x.divovf ||| statusBit base l.ill x.ill
    ||| x.extra.foldr (fun pos b => statusBit base pos true ||| b) 0#8

/-- Whether a write of v to the byte with this base writes 1 to a status bit. -/
def writesOne (base pos : Nat) (v : Byte) : Bool := inWindow pos base 8 && v.getLsbD (pos - base)

/-- SYSEXCP after a write of v to its byte i: writing 1 clears a bit, writing 0 has no effect (R54). -/
def clearSysExcp (l : SysExcpLayout) (i : Nat) (v : Byte) (x : SysExcp) : SysExcp :=
  let base := sysExcpBase l i
  { pcovf := x.pcovf && !writesOne base l.pcovf v
    spovf := x.spovf && !writesOne base l.spovf v
    div0 := x.div0 && !writesOne base l.div0 v
    divovf := x.divovf && !writesOne base l.divovf v
    ill := x.ill && !writesOne base l.ill v
    extra := x.extra.filter fun pos => !writesOne base pos v }

/-! ### Reading memory -/

/-- The byte at an address (R95). An address whose read stops answers FFH here; `readMem` stops before it looks. -/
def byteAt (a : Quad) (s : State) : Byte :=
  match locate s.dev a with
  | .pcov i => quadByte s.pcov i
  | .spov i => quadByte s.spov i
  | .flags => s.flags
  | .cpuctl => 0b111111#6 ++ s.dmabw
  | .sysexcp l i => sysExcpByte l s.sysexcp i
  | .peripheral => 0xFF#8
  | .ioUnavailable => 0xFF#8
  | .readOnly p => Memory.read p s.mem
  | .memory p => Memory.read p s.mem
  | .unavailable => 0xFF#8

/-- The addresses of n bytes from an address up, modulo 2^32 (R95, R112). -/
def bytesFrom (n : Nat) (a : Quad) : List Quad := (List.range n).map fun k => a + BitVec.ofNat 32 k

/-- The value of one size at an address, the byte at the address most significant (R92, R95). -/
def valueAt (z : Size) (a : Quad) (s : State) : BitVec (Size.bits z) :=
  match z with
  | .byte => byteAt a s
  | .word => byteAt a s ++ byteAt (a + 1#32) s
  | .quad => byteAt a s ++ byteAt (a + 1#32) s ++ byteAt (a + 2#32) s ++ byteAt (a + 3#32) s

/-- Why a read of a byte stops, if it does (R88, R89). -/
def readStop (d : Device) (a : Quad) : Option Stop :=
  match locate d a with
  | .peripheral => some (.refuse .peripheralRegister)
  | .unavailable => some (.fault .unavailableAddress)
  | _ => none

/-- Every byte of a datum can be read. -/
def Readable (d : Device) (z : Size) (a : Quad) : Prop := ∀ b ∈ bytesFrom (Size.bytes z) a, readStop d b = none

/-- `MemRead` (R95): any alignment is allowed (R94). Nothing comes between its bytes: so the entries read (D19). -/
def readMem (z : Size) (a : Quad) (s : State) : Out (BitVec (Size.bits z)) :=
  unlessStop ((bytesFrom (Size.bytes z) a).findSome? (readStop s.dev)) (valueAt z a s)

/-! ### Writing memory -/

/-- Store one byte where its address lives (R50 to R55, R87, R96). Writes to CPUCTL [7:2] and to I/O addresses without a
register have no effect. A byte of memory is noted as stored to (R108). -/
def putByte (a : Quad) (v : Byte) (s : State) : State :=
  match locate s.dev a with
  | .pcov i => { s with pcov := setQuadByte s.pcov i v }
  | .spov i => { s with spov := setQuadByte s.spov i v }
  | .flags => { s with flags := v }
  | .cpuctl => { s with dmabw := v.extractLsb' 0 2 }
  | .sysexcp l i => { s with sysexcp := clearSysExcp l i v s.sysexcp }
  | .peripheral => s
  | .ioUnavailable => s
  | .readOnly _ => s
  | .memory p => { s with mem := Memory.write p v s.mem, dirty := noteAddress p s.dirty }
  | .unavailable => s

/-- Byte i of a datum, 0 the least significant. -/
def byteOf {n : Nat} (v : BitVec n) (i : Nat) : Byte := v.extractLsb' (8 * i) 8

/-- Store a value of one size, its most significant byte at the address (R92, R96). -/
def putValue (z : Size) (a : Quad) (v : BitVec (Size.bits z)) (s : State) : State :=
  match z with
  | .byte => putByte a (byteOf v 0) s
  | .word => putByte (a + 1#32) (byteOf v 0) (putByte a (byteOf v 1) s)
  | .quad =>
    putByte (a + 3#32) (byteOf v 0) (putByte (a + 2#32) (byteOf v 1)
      (putByte (a + 1#32) (byteOf v 2) (putByte a (byteOf v 3) s)))

/-- Why a write of a byte stops, if it does (R85, R88, R89). -/
def writeStop (d : Device) (a : Quad) : Option Stop :=
  match locate d a with
  | .peripheral => some (.refuse .peripheralRegister)
  | .readOnly _ => some (.refuse .storeToNonVolatile)
  | .unavailable => some (.fault .unavailableAddress)
  | _ => none

/-- Every byte of a datum can be written. -/
def Writable (d : Device) (z : Size) (a : Quad) : Prop := ∀ b ∈ bytesFrom (Size.bytes z) a, writeStop d b = none

/-- `MemWrite` (R96): any alignment is allowed (R94). Nothing comes between its bytes: so the entries write (D19). -/
def writeMem (z : Size) (a : Quad) (v : BitVec (Size.bits z)) (s : State) : Out State :=
  unlessStop ((bytesFrom (Size.bytes z) a).findSome? (writeStop s.dev)) (putValue z a v s)

/-! ### The DMA controller -/

/-- The DMA controller may access the byte at an address: the device's DMA reaches it, and no ATM window is open (R104,
R400 (b)). -/
def dmaMay (s : State) (a : Quad) : Bool :=
  s.atmCount == 0 && s.dev.dmaReach.any fun r => inWindow (physical s.dev a) r.base r.size

/-- One byte access of the DMA controller, if it may make it (R104, D20). The place decides what the access does, as for the
CPU's own, and a byte that it writes counts as stored for R108 (log entry 42). -/
def dmaAccess (x : DmaAccess) (s : State) : Out State :=
  match x with
  | .read a =>
    if dmaMay s a then andThen (readMem .byte a s) fun b => .next { s with dmaSeen := b :: s.dmaSeen } else .next s
  | .write a v => if dmaMay s a then writeMem .byte a v s else .next s

/-- Accesses of the DMA controller, one after the other. -/
def dmaAccesses : List DmaAccess → State → Out State
  | [], s => .next s
  | x :: xs, s => andThen (dmaAccess x s) fun t => dmaAccesses xs t

/-- The DMA controller's turn before a byte access of the CPU: it makes the accesses it has planned there, except in an ATM
window, where they wait (R103, R104, D20). -/
def dmaTurn (s : State) : Out State :=
  if s.atmCount = 0 then dmaAccesses (s.dmaPlan.headD []) { s with dmaPlan := s.dmaPlan.tail } else .next s

/-- The DMA controller does nothing between the CPU's accesses: a window is open, or it has planned nothing. -/
def Undisturbed (s : State) : Prop := s.atmCount ≠ 0 ∨ s.dmaPlan = []

/-! ### The CPU's own accesses -/

/-- Read one byte, after the DMA controller's turn (R103 (a)). -/
def busByte (a : Quad) (s : State) : Out (Byte × State) := andThen (dmaTurn s) fun t => .next (byteAt a t, t)

/-- Store one byte, after the DMA controller's turn (R103 (a)). -/
def busPut (a : Quad) (v : Byte) (s : State) : Out State := andThen (dmaTurn s) fun t => .next (putByte a v t)

/-- The bytes of a datum, read one by one in rising order (R103 (b); the order is log entry 52). -/
def busGet (z : Size) (a : Quad) (s : State) : Out (BitVec (Size.bits z) × State) :=
  match z with
  | .byte => busByte a s
  | .word =>
    andThen (busByte a s) fun b0 =>
    andThen (busByte (a + 1#32) b0.2) fun b1 => .next (b0.1 ++ b1.1, b1.2)
  | .quad =>
    andThen (busByte a s) fun b0 =>
    andThen (busByte (a + 1#32) b0.2) fun b1 =>
    andThen (busByte (a + 2#32) b1.2) fun b2 =>
    andThen (busByte (a + 3#32) b2.2) fun b3 => .next (b0.1 ++ b1.1 ++ b2.1 ++ b3.1, b3.2)

/-- The bytes of a datum, stored one by one in rising order (R103 (b); the order is log entry 52). -/
def busSet (z : Size) (a : Quad) (v : BitVec (Size.bits z)) (s : State) : Out State :=
  match z with
  | .byte => busPut a (byteOf v 0) s
  | .word => andThen (busPut a (byteOf v 1) s) fun t => busPut (a + 1#32) (byteOf v 0) t
  | .quad =>
    andThen (busPut a (byteOf v 3) s) fun t =>
    andThen (busPut (a + 1#32) (byteOf v 2) t) fun t =>
    andThen (busPut (a + 2#32) (byteOf v 1) t) fun t => busPut (a + 3#32) (byteOf v 0) t

/-- The bytes of a datum, stored one by one in falling order: the low-order bytes first, as a push stores them (R99). -/
def busSetDown (z : Size) (a : Quad) (v : BitVec (Size.bits z)) (s : State) : Out State :=
  match z with
  | .byte => busPut a (byteOf v 0) s
  | .word => andThen (busPut (a + 1#32) (byteOf v 0) s) fun t => busPut a (byteOf v 1) t
  | .quad =>
    andThen (busPut (a + 3#32) (byteOf v 0) s) fun t =>
    andThen (busPut (a + 2#32) (byteOf v 1) t) fun t =>
    andThen (busPut (a + 1#32) (byteOf v 2) t) fun t => busPut a (byteOf v 3) t

/-- `MemRead` of an instruction (R95): the value, and the state after the DMA controller's turns between its bytes. -/
def busRead (z : Size) (a : Quad) (s : State) : Out (BitVec (Size.bits z) × State) :=
  andThen (unlessStop ((bytesFrom (Size.bytes z) a).findSome? (readStop s.dev)) ()) fun _ => busGet z a s

/-- `MemWrite` of an instruction (R96), with the DMA controller's turns between its bytes. -/
def busWrite (z : Size) (a : Quad) (v : BitVec (Size.bits z)) (s : State) : Out State :=
  andThen (unlessStop ((bytesFrom (Size.bytes z) a).findSome? (writeStop s.dev)) ()) fun _ => busSet z a v s

/-- `MemWrite` of a push in an instruction (R96, R99), with the DMA controller's turns between its bytes. -/
def busWriteDown (z : Size) (a : Quad) (v : BitVec (Size.bits z)) (s : State) : Out State :=
  andThen (unlessStop ((bytesFrom (Size.bytes z) a).findSome? (writeStop s.dev)) ()) fun _ => busSetDown z a v s

/-! ### The stack -/

/-- The Stack Pointer, R15 (R32). -/
def State.sp (s : State) : Quad := s.reg spReg

/-- Push a datum in an entry: decrement SP by its size, then store it at the new SP (R99, R136). Nothing comes between its
bytes (D19), so that the order in which they are stored cannot be seen. -/
def push (z : Size) (v : BitVec (Size.bits z)) (s : State) : Out State :=
  writeMem z (s.sp - sizeQuad z) v (s.writeReg spReg (s.sp - sizeQuad z))

/-- Push a datum in an instruction: decrement SP by its size, then store it at the new SP, its low-order bytes first (R99,
R136). -/
def busPush (z : Size) (v : BitVec (Size.bits z)) (s : State) : Out State :=
  busWriteDown z (s.sp - sizeQuad z) v (s.writeReg spReg (s.sp - sizeQuad z))

/-- `{00H, FLAGS}`: the word that holds FLAGS on the stack (R367, R510). -/
def flagsWord (f : Byte) : BitVec (Size.bits .word) := 0x00#8 ++ f

/-! ### Writing the PC -/

/-- Jump: the next instruction is fetched at the target, after every store so far (R35, R108). -/
def jumpTo (t : Quad) (s : State) : State := { s with pc := t, dirty := [] }

/-- A jump target with bit 0 discarded (R138, R420 (b)). -/
def evenAddress (t : Quad) : Quad := t &&& 0xFFFFFFFE#32

/-- Jump to a value loaded from memory; an odd one is a fault (R420 (c), D12). -/
def loadPc (t : Quad) (s : State) : Out State :=
  if t.getLsbD 0 then .fault .oddPc else .next (jumpTo t s)

/-- Jump through a vector quad in an instruction, TRAP or a chained IRET (R440, R436). -/
def busJump (vector : Quad) (s : State) : Out State := andThen (busRead .quad vector s) fun r => loadPc r.1 r.2

/-- Jump through a vector quad in an entry or a reset (R501, R600). -/
def jumpThrough (vector : Quad) (s : State) : Out State :=
  andThen (readMem .quad vector s) fun t => loadPc t s

/-! ### System exceptions -/

/-- The five system exceptions (R525), and one that a device adds, named by the position of its bit (R532). -/
inductive SysExc where
  | pcOverflow | stackOverflow | divideByZero | divideOverflow | illegalInstruction
  | device (pos : Nat)
deriving DecidableEq, Repr

/-- The SYSEXCP bit of an exception (R525). -/
def excBit (e : SysExc) (x : SysExcp) : Bool :=
  match e with
  | .pcOverflow => x.pcovf
  | .stackOverflow => x.spovf
  | .divideByZero => x.div0
  | .divideOverflow => x.divovf
  | .illegalInstruction => x.ill
  | .device pos => x.extra.contains pos

/-- A rising list with n in it. -/
def insertRising (n : Nat) : List Nat → List Nat
  | [] => [n]
  | m :: ms => if n < m then n :: m :: ms else if n = m then m :: ms else m :: insertRising n ms

/-- Set the SYSEXCP bit of an exception (R525). -/
def setExcBit (e : SysExc) (x : SysExcp) : SysExcp :=
  match e with
  | .pcOverflow => { x with pcovf := true }
  | .stackOverflow => { x with spovf := true }
  | .divideByZero => { x with div0 := true }
  | .divideOverflow => { x with divovf := true }
  | .illegalInstruction => { x with ill := true }
  | .device pos => { x with extra := insertRising pos x.extra }

/-- The vector quad that the system exceptions share (R501, R520). -/
def sysExcVector : Quad := 0x00000008#32

/-- CIRQE takes IRQE (R520, R521). -/
def copyIrqe (s : State) : State := { s with flags := setCirqe (flagIrqe s.flags) s.flags }

/-- A system exception clears IRQE where `SYSEXC_CLEARS_IRQE` says so (R521, D11). -/
def excIrqe (s : State) : State :=
  if s.dev.sysexcClearsIrqe then { s with flags := setIrqe false s.flags } else s

/-- Taking a system exception (R520): set its SYSEXCP bit, push {00H, FLAGS}, copy IRQE to CIRQE, push the PC value given,
clear IRQE by the device's parameter, and jump through the vector at 0000_0008H. -/
def takeException (e : SysExc) (pushedPc : Quad) (s : State) : Out State :=
  andThen (push .word (flagsWord s.flags) { s with sysexcp := setExcBit e s.sysexcp }) fun s1 =>
  andThen (push .quad pushedPc (copyIrqe s1)) fun s2 =>
  jumpThrough sysExcVector (excIrqe s2)

/-- A cause of Divide-by-Zero or Divide Overflow: the exception is taken, with the next instruction's address, unless its
bit is still set, which leaves everything unchanged (R522, R524, R528, R529, D25). -/
def raiseOnce (e : SysExc) (s : State) : Out State :=
  if excBit e s.sysexcp then .next s else takeException e s.pc s

/-- Clear the Extend and NOFLAGS latches (R58). -/
def clearLatches (s : State) : State := { s with extPending := false, noflagsPending := false }

/-- Illegal Instruction at an address (R531): the exception, which pushes that address; while SYSEXCP.ILL is still set
nothing is pushed and SP is unchanged, and the rest of the entry happens (D30). -/
def illegalInstruction (at_ : Quad) (s : State) : Out State :=
  if s.sysexcp.ill then jumpThrough sysExcVector (excIrqe (copyIrqe (clearLatches s)))
  else takeException .illegalInstruction at_ (clearLatches s)

/-! ### Interrupts -/

/-- The Interrupt Controller's answer to `Accept`: the highest request is no longer presented (R500, D32). -/
def acceptHead (s : State) : State := { s with pending := s.pending.tail }

/-- Interrupt entry (R510), step by step: each push is one byte. -/
def interruptEntry (q : IrqRequest) (s : State) : Out State :=
  andThen (push .byte s.flags s) fun s1 =>
  andThen (push .byte 0x00#8 s1) fun s2 =>
  andThen (push .byte (quadByte s.pc 3) s2) fun s3 =>
  andThen (push .byte (quadByte s.pc 2) (copyIrqe s3)) fun s4 =>
  andThen (push .byte (quadByte s.pc 1) s4) fun s5 =>
  andThen (push .byte (quadByte s.pc 0) s5) fun s6 =>
  andThen (jumpThrough q.vectorAddr { s6 with flags := setIrqe false s6.flags }) fun s7 =>
  .next (acceptHead s7)

/-- The normal return from an interrupt, an exception or a trap (R436): the PC from the stack, then FLAGS from the byte
behind the pad byte. -/
def normalReturn (s : State) : Out State :=
  andThen (busRead .quad s.sp s) fun r =>
  let s1 := r.2.writeReg spReg (r.2.sp + 4#32)
  andThen (busRead .byte (s1.sp + 1#32) s1) fun f =>
  let s2 := f.2.writeReg spReg (f.2.sp + 2#32)
  loadPc r.1 { s2 with flags := f.1 }

/-- The chained return (R436): clear IRQE and jump through the vector of the pending request, the stack unchanged. -/
def chainedReturn (q : IrqRequest) (s : State) : Out State :=
  andThen (busJump q.vectorAddr { s with flags := setIrqe false s.flags }) fun s1 =>
  .next (acceptHead s1)

/-! ### Completing a step -/

/-- The end of a step (R523, R533 item 6): a requested Stack Overflow is taken, with the PC as it stands, unless SPOVF is
set; the request is dropped in any case. -/
def finishStep (s : State) : Out State :=
  if s.spovReq && !s.sysexcp.spovf then
    andThen (takeException .stackOverflow s.pc s) fun s1 => .next { s1 with spovReq := false }
  else .next { s with spovReq := false }

/-! ### Instruction fetch -/

/-- Why a fetch of a byte stops, if it does (R89, R108, R110). -/
def fetchStop (s : State) (a : Quad) : Option Stop :=
  if ioBase s.dev ≤ physical s.dev a then some (.fault .fetchFromIo)
  else
    match locateMem s.dev (physical s.dev a) with
    | .unavailable => some (.fault .unavailableAddress)
    | _ => if s.dirty.contains (physical s.dev a) then some (.refuse .staleFetch) else none

/-- Fetch one byte, after the DMA controller's turn (R103 (a), R107). -/
def fetchByte (a : Quad) (s : State) : Out (Byte × State) :=
  andThen (dmaTurn s) fun t => unlessStop (fetchStop t a) (byteAt a t, t)

/-- Fetch an instruction word at an even address (R98, R107, D12). -/
def fetchWord (a : Quad) (s : State) : Out (Word × State) :=
  if a.getLsbD 0 then .fault .oddPc
  else
    andThen (fetchByte a s) fun b0 =>
    andThen (fetchByte (a + 1#32) b0.2) fun b1 => .next (b0.1 ++ b1.1, b1.2)

/-- The words of a fetched instruction; a word it does not have is 0. -/
structure Fetched where
  w0 : Word
  w1 : Word
  w2 : Word
deriving DecidableEq, Repr

/-- Fetch a word if the instruction has it. -/
def fetchIf (b : Bool) (a : Quad) (s : State) : Out (Word × State) :=
  if b then fetchWord a s else .next (0#16, s)

/-- Fetch the remaining words of the instruction at the PC, as many as its word 0 says (R5, R122, R185 (3)); answers all its
words, and the state after the DMA controller's turns between their bytes. -/
def fetchRest (w0 : Word) (s : State) : Out (Fetched × State) :=
  andThen (fetchIf (decide (2 ≤ instrWords w0)) (s.pc + 2#32) s) fun w1 =>
  andThen (fetchIf (decide (3 ≤ instrWords w0)) (s.pc + 4#32) w1.2) fun w2 =>
  .next (⟨w0, w1.1, w2.1⟩, w2.2)

/-- The address after an instruction with this word 0 (R36). -/
def afterInstr (pc : Quad) (w0 : Word) : Quad := pc + BitVec.ofNat 32 (2 * instrWords w0)

end Sys2Proof.Machine
end

