-- ==== Sys2Proof/Machine/Operands.lean ====
section
/-! DEFINITION. The operand forms of the spec: effective addresses, the extension of a memory source, and the pointer
updates of predecrement and postincrement (R125 to R134). -/

namespace Sys2Proof.Machine

/-- The effective address of a 16-bit direct address (R90). -/
def ea16 (a : BitVec 16) : Quad := a.signExtend 32

/-- A register plus a signed byte offset, modulo 2^32 (R112, R130, R131, R133). -/
def baseOff {n : Nat} (base : Quad) (off : BitVec n) : Quad := base + off.signExtend 32

/-- The size a source of one kind is read with (R128). -/
def kindSize : LoadKind → Size
  | .q => .quad
  | .ub => .byte
  | .uw => .word
  | .sb => .byte
  | .sw => .word

/-- Whether a kind extends with the sign (R128). -/
def kindSigned : LoadKind → Bool
  | .sb => true
  | .sw => true
  | _ => false

/-- Extend a value read from memory to 32 bits (R93). -/
def kindExtend (k : LoadKind) (v : BitVec (Size.bits (kindSize k))) : Quad :=
  if kindSigned k then v.signExtend 32 else v.setWidth 32

/-- The effective address of a memory operand of a binary operation (R204). -/
def eaMem13 (m : Mem13) (s : State) : Quad :=
  match m with
  | .addr16 a => ea16 a
  | .addr32 a => a
  | .ind r off => baseOff (s.reg r) off

/-- The effective address of a memory operand of a unary operation (R210). -/
def eaUop (m : UopMem) (s : State) : Quad :=
  match m with
  | .addr16 a => ea16 a
  | .addr32 a => a
  | .mem rd => s.reg rd
  | .ind rd off => baseOff (s.reg rd) off

/-- The effective address of a memory source of LD, and of LEA (R314 to R317, R340 to R342); the PC is the address of the
next instruction (R132). -/
def eaLoad (m : LoadMem) (s : State) : Quad :=
  match m with
  | .pc off => baseOff s.pc off
  | .addr16 a => ea16 a
  | .addr32 a => a
  | .mem rs => s.reg rs
  | .postInc rs => s.reg rs
  | .ind rs off => baseOff (s.reg rs) off
  | .fp off => baseOff (s.reg fpReg) off

/-- The pointer update of a memory source of LD, after the access (R134, R315). -/
def loadUpdate (k : LoadKind) (m : LoadMem) (s : State) : State :=
  match m with
  | .postInc rs => s.writeReg rs (s.reg rs + sizeQuad (kindSize k))
  | _ => s

/-- A postincrement load into its own pointer (R318 (a)). -/
def loadClash (rd : Reg) : LoadMem → Bool
  | .postInc rs => rs == rd
  | _ => false

/-- The pointer update of a memory destination of LD before the store (R134, R323). -/
def storeBefore (z : Size) (m : StoreMem) (s : State) : State :=
  match m with
  | .preDec rd => s.writeReg rd (s.reg rd - sizeQuad z)
  | _ => s

/-- The effective address of a memory destination of LD, after the update before the store (R321 to R324). -/
def eaStore (m : StoreMem) (s : State) : Quad :=
  match m with
  | .addr16 a => ea16 a
  | .addr32 a => a
  | .mem rd => s.reg rd
  | .preDec rd => s.reg rd
  | .postInc rd => s.reg rd
  | .ind rd off => baseOff (s.reg rd) off
  | .fp off => baseOff (s.reg fpReg) off

/-- The pointer update of a memory destination of LD after the store (R134, R324). -/
def storeAfter (z : Size) (m : StoreMem) (s : State) : State :=
  match m with
  | .postInc rd => s.writeReg rd (s.reg rd + sizeQuad z)
  | _ => s

/-- The memory destination that a store of an immediate through a pointer has (R325 to R327). -/
def ptrMem (m : PtrMode) (rd : Reg) : StoreMem :=
  match m with
  | .mem => .mem rd
  | .preDec => .preDec rd
  | .postInc => .postInc rd

/-- The registers PUSHM pushes, in order: mask bit k selects R(top - k), bit 0 first (R372, R373). -/
def pushMask (top : Nat) (mask : BitVec 8) : List Reg :=
  ((List.range 8).filter fun k => mask.getLsbD k).map fun k => BitVec.ofNat 4 (top - k)

/-- The registers POPM pops, in order: mask bit k selects R(base + k), bit 0 first (R374, R375). -/
def popMask (base : Nat) (mask : BitVec 8) : List Reg :=
  ((List.range 8).filter fun k => mask.getLsbD k).map fun k => BitVec.ofNat 4 (base + k)

end Sys2Proof.Machine
end

