-- ==== Sys2Proof/Machine/Actions.lean ====
section
/-! DEFINITION. The shared operations that the meanings of the instructions are made of, one per rule of the spec. In each,
`s.pc` is the address of the next instruction (R36), and the state has the latches as the instruction found them. -/

namespace Sys2Proof.Machine

/-! ### Binary operations (R204 to R213, R260 to R263, R280 to R282) -/

/-- A binary operation with a register destination (R204 forms 1 to 6, 16 to 21 and 26 to 31). Its C and its old Z are those
of `old`, FLAGS before the instruction (R202 (a), R207). -/
def bopReg (op : Bop) (rd : Reg) (b : Quad) (old : Byte) (s : State) : Out State :=
  let x := bopCompute op s.extPending old (s.reg rd) b
  .next ((if bopWrites op then s.writeReg rd x.1 else s).setFlags x.2)

/-- A binary operation with a memory destination (R204 forms 7 to 15 and 22 to 25): read, compute, write at the same address
(R100 (a)), and then the flags (D14). C and the old Z are those of FLAGS before the instruction, in the state it is run in
(R202 (a), R207): a DMA write to FLAGS between the accesses does not change them, the model's reading (log entry 53). -/
def bopMem (op : Bop) (z : Size) (ea : Quad) (b : BitVec (Size.bits z)) (s : State) : Out State :=
  andThen (busRead z ea s) fun a =>
  let x := bopCompute op s.extPending s.flags a.1 b
  if bopWrites op then andThen (busWrite z ea x.1 a.2) fun t => .next (t.setFlags x.2)
  else .next (a.2.setFlags x.2)

/-- A binary operation in one of its 31 operand forms (R204). C and the old Z are read before a memory source is (R202 (a), log
entry 53). -/
def bop (op : Bop) (f : BopForm) (s : State) : Out State :=
  match f with
  | .imm32 rd imm => bopReg op rd imm s.flags s
  | .uimm16 rd imm => bopReg op rd (imm.setWidth 32) s.flags s
  | .reg rd rs => bopReg op rd (s.reg rs) s.flags s
  | .load k rd m => andThen (busRead (kindSize k) (eaMem13 m s) s) fun v => bopReg op rd (kindExtend k v.1) s.flags v.2
  | .store z m rs => bopMem op z (eaMem13 m s) ((s.reg rs).setWidth (Size.bits z)) s
  | .memImm32 rd imm => bopMem op .quad (s.reg rd) imm s
  | .memSimm16 rd imm => bopMem op .quad (s.reg rd) (imm.signExtend 32) s
  | .memWImm16 rd imm => bopMem op .word (s.reg rd) imm s
  | .memBImm8 rd imm => bopMem op .byte (s.reg rd) imm s

/-- ADD Rd,Rs1+Rs2, or ADC behind the Extend prefix (R206). -/
def addThree (rd rs1 rs2 : Reg) (s : State) : Out State :=
  let x := bopCompute .add s.extPending s.flags (s.reg rs1) (s.reg rs2)
  .next ((s.writeReg rd x.1).setFlags x.2)

/-- ADD Rd,#simm8, or ADC behind the Extend prefix (R205). -/
def addShort (rd : Reg) (imm : BitVec 8) (s : State) : Out State := bopReg .add rd (imm.signExtend 32) s.flags s

/-- CP Rd,#simm8, or CPC behind the Extend prefix (R213, R211). -/
def compareShort (rd : Reg) (imm : BitVec 8) (s : State) : Out State := bopReg .cp rd (imm.signExtend 32) s.flags s

/-- CPCZ Rd: compare with zero and the Carry bit, B set (R215). -/
def compareZeroCarry (rd : Reg) (s : State) : Out State :=
  .next (s.setFlags (uopCompute .cpz true s.flags (s.reg rd)).2)

/-! ### Unary operations -/

/-- CLR, CPZ, INC or DEC of a memory operand (R210, R214 to R217). CLR writes without reading (R350). C and
the old Z of CPCZ are those of FLAGS before the instruction (R202 (a), R215, log entry 53). -/
def uop (op : Uop) (z : Size) (m : UopMem) (s : State) : Out State :=
  match op with
  | .clr => busWrite z (eaUop m s) (BitVec.ofNat _ 0) s
  | .cpz =>
    andThen (busRead z (eaUop m s) s) fun a =>
    .next (a.2.setFlags (uopCompute .cpz s.extPending s.flags a.1).2)
  | .inc =>
    andThen (busRead z (eaUop m s) s) fun a =>
    let x := uopCompute .inc s.extPending s.flags a.1
    andThen (busWrite z (eaUop m s) x.1 a.2) fun t => .next (t.setFlags x.2)
  | .dec =>
    andThen (busRead z (eaUop m s) s) fun a =>
    let x := uopCompute .dec s.extPending s.flags a.1
    andThen (busWrite z (eaUop m s) x.1 a.2) fun t => .next (t.setFlags x.2)

/-- NEG Rd (R222). -/
def negate (rd : Reg) (s : State) : Out State :=
  let a := s.reg rd
  let x := subFlags 0#32 a false
  .next ((s.writeReg rd x.r).setFlags (arithPatch x false false (blank1 a)))

/-- COM Rd (R266). -/
def complement (rd : Reg) (s : State) : Out State :=
  let a := s.reg rd
  .next ((s.writeReg rd (~~~a)).setFlags (comPatch a (~~~a)))

/-! ### Multiply and divide -/

/-- MUL Rd,Rs (R230). -/
def multiply (rd rs : Reg) (s : State) : Out State :=
  let r := s.reg rd * s.reg rs
  .next ((s.writeReg rd r).setFlags (productPatch r false))

/-- The 64-bit product of two quads, signed or unsigned (R231, R232). -/
def product64 (signed : Bool) (a b : Quad) : BitVec 64 :=
  if signed then a.signExtend 64 * b.signExtend 64 else a.setWidth 64 * b.setWidth 64

/-- SMUL and UMUL Rd,Rs (R231, R232): the low quad to Rd, the high quad to Rs, which must be another register (D22). -/
def multiplyWide (signed : Bool) (rd rs : Reg) (s : State) : Out State :=
  if rd = rs then .refused .registerOverlap
  else
    let p := product64 signed (s.reg rd) (s.reg rs)
    .next (((s.writeReg rd (p.extractLsb' 0 32)).writeReg rs (p.extractLsb' 32 32)).setFlags (productPatch p false))

/-- Write the quotient and the remainder of a divide, and its flags (R233 to R235). -/
def putQuotient (rq : Reg) (q : Quad) (rt : Reg) (t : Quad) (v : Bool) (s : State) : State :=
  ((s.writeReg rq q).writeReg rt t).setFlags (productPatch q v)

/-- UDIV64 RRd,Rs (R234). Rs must be in no register of the pair (D22). -/
def divide64 (rd rs : Reg) (s : State) : Out State :=
  let re := nextReg rd
  if rs = rd ∨ rs = re then .refused .registerOverlap
  else if s.reg rs = 0#32 then raiseOnce .divideByZero s
  else
    let n : BitVec 64 := s.reg rd ++ s.reg re
    let m : BitVec 64 := (s.reg rs).setWidth 64
    if 2 ^ 32 ≤ (n / m).toNat then raiseOnce .divideOverflow s
    else .next (putQuotient rd ((n / m).setWidth 32) re ((n % m).setWidth 32) false s)

/-- UDIV Rd,Rs (R233), or UDIV64 behind the Extend prefix (R181). -/
def divideUnsigned (rd rs : Reg) (s : State) : Out State :=
  if s.extPending then divide64 rd rs s
  else if rd = rs then .refused .registerOverlap
  else if s.reg rs = 0#32 then raiseOnce .divideByZero s
  else .next (putQuotient rd (s.reg rd / s.reg rs) rs (s.reg rd % s.reg rs) false s)

/-- SDIV Rd,Rs (R235): truncated toward zero, the remainder with the dividend's sign. The one quotient that does not fit is
8000_0000H with S and V set. -/
def divideSigned (rd rs : Reg) (s : State) : Out State :=
  if rd = rs then .refused .registerOverlap
  else if s.reg rs = 0#32 then raiseOnce .divideByZero s
  else if s.reg rd = 0x80000000#32 ∧ s.reg rs = 0xFFFFFFFF#32 then
    .next (putQuotient rd 0x80000000#32 rs 0#32 true s)
  else .next (putQuotient rd ((s.reg rd).sdiv (s.reg rs)) rs ((s.reg rd).srem (s.reg rs)) false s)

/-! ### Shifts and rotates -/

/-- A shift or rotate of Rd by a count (R290 to R295). -/
def shiftBy (op : ShiftOp) (rd : Reg) (n : Nat) (s : State) : State :=
  let x := shiftCompute op (s.reg rd) n
  (s.writeReg rd x.1).setFlags (shiftPatch x.1 x.2)

/-- The shift count in a register: bits [4:0] (R291). -/
def shiftCount (s : State) (rs : Reg) : Nat := (s.reg rs).toNat % 32

/-- A shift by a register count, or behind the Extend prefix SRAX, SRLX, SLLX, which move the bits shifted out into Rs
(R296 to R299); Rs must then be another register (D22). -/
def shiftReg (op : ShiftOp) (rd rs : Reg) (s : State) : Out State :=
  if s.extPending then
    if rd = rs then .refused .registerOverlap
    else
      let x := shiftCompute op (s.reg rd) (shiftCount s rs)
      let out := shiftOut op (s.reg rd) (shiftCount s rs)
      .next (((s.writeReg rd x.1).writeReg rs out).setFlags (shiftPatch x.1 x.2))
  else .next (shiftBy op rd (shiftCount s rs) s)

/-- A shift by an immediate count (R291). -/
def shiftImm (op : ShiftOp) (rd : Reg) (imm : BitVec 5) (s : State) : Out State :=
  .next (shiftBy op rd imm.toNat s)

/-! ### Loads and stores -/

/-- LD Rd with a memory source (R314 to R317, R319): read, update the pointer, write Rd, and then B. -/
def load (k : LoadKind) (rd : Reg) (m : LoadMem) (s : State) : Out State :=
  if loadClash rd m then .refused .pointerOverlap
  else
    andThen (busRead (kindSize k) (eaLoad m s) s) fun v =>
    .next (((loadUpdate k m v.2).writeReg rd (kindExtend k v.1)).setFlags (blankPatch (blank1 v.1)))

/-- The store of LD to a memory destination. A predecrement store is PUSH where its pointer is R15 (R360) and stores the
low-order bytes first (R99); through another pointer the model does the same (log entry 52). -/
def storeDatum (z : Size) (m : StoreMem) (v : BitVec (Size.bits z)) (s : State) : Out State :=
  match m with
  | .preDec _ => busWriteDown z (eaStore m s) v s
  | _ => busWrite z (eaStore m s) v s

/-- LD with a memory destination and a register source (R321 to R324): the register is read after a predecrement
(R318 (b)), cut to the size (R93). -/
def store (z : Size) (m : StoreMem) (rs : Reg) (s : State) : Out State :=
  let s1 := storeBefore z m s
  andThen (storeDatum z m ((s1.reg rs).setWidth (Size.bits z)) s1) fun t => .next (storeAfter z m t)

/-- LD of a constant through a pointer (R325 to R327). -/
def storeConst (z : Size) (m : StoreMem) (v : BitVec (Size.bits z)) (s : State) : Out State :=
  let s1 := storeBefore z m s
  andThen (storeDatum z m v s1) fun t => .next (storeAfter z m t)

/-- LD with a memory destination and an immediate source (R325 to R327). -/
def storeImm (m : PtrMode) (rd : Reg) (v : StoreVal) (s : State) : Out State :=
  match v with
  | .imm32 imm => storeConst .quad (ptrMem m rd) imm s
  | .simm16 imm => storeConst .quad (ptrMem m rd) (imm.signExtend 32) s
  | .wImm16 imm => storeConst .word (ptrMem m rd) imm s
  | .bImm8 imm => storeConst .byte (ptrMem m rd) imm s

/-- LD of a value into a register, no flag (R311, R312). -/
def loadValue (rd : Reg) (v : Quad) (s : State) : Out State := .next (s.writeReg rd v)

/-- LD Rd,Rs (R313). -/
def copyReg (rd rs : Reg) (s : State) : Out State := .next (s.writeReg rd (s.reg rs))

/-- LD cc,Rd (R338). -/
def loadCondition (cc : CC) (rd : Reg) (s : State) : Out State :=
  .next (s.writeReg rd (if cond cc s.flags then 1#32 else 0#32))

/-- LDES Rd (R339). -/
def loadSign (rd : Reg) (s : State) : Out State :=
  .next (s.writeReg rd (if flagS s.flags then 0xFFFFFFFF#32 else 0#32))

/-- LEA Rd (R340 to R342). -/
def loadAddress (rd : Reg) (m : LoadMem) (s : State) : Out State := .next (s.writeReg rd (eaLoad m s))

/-- EXT Rd,Rs (R345). -/
def extend (k : LoadKind) (rd rs : Reg) (s : State) : Out State :=
  let r := kindExtend k ((s.reg rs).setWidth (Size.bits (kindSize k)))
  .next ((s.writeReg rd r).setFlags (extPatch r))

/-! ### The stack -/

/-- PUSH of a short immediate (R361). -/
def pushValue (z : Size) (v : BitVec (Size.bits z)) (s : State) : Out State := busPush z v s

/-- POP (R364): a postincrement load through R15. -/
def popValue (k : LoadKind) (rd : Reg) (s : State) : Out State := load k rd (.postInc spReg) s

/-- PUSHM (R372, R373): push the registers in this order, each as it is after SP's decrement (D24). -/
def pushMultiple : List Reg → State → Out State
  | [], s => .next s
  | r :: rs, s =>
    let s1 := s.writeReg spReg (s.sp - 4#32)
    andThen (busWriteDown .quad s1.sp (s1.reg r) s1) fun t => pushMultiple rs t

/-- Pop registers in this order; answers the state and the last value popped, if any (R374). -/
def popLoop : List Reg → Option Quad → State → Out (State × Option Quad)
  | [], last, s => .next (s, last)
  | r :: rs, _, s =>
    andThen (busRead .quad s.sp s) fun v =>
    let s1 := v.2.writeReg r v.1
    popLoop rs (some v.1) (s1.writeReg spReg (s1.sp + 4#32))

/-- POPM (R374, R375): B from the last value popped, unchanged when there is none. R15 must not be among them (D23). -/
def popMultiple (rs : List Reg) (s : State) : Out State :=
  if rs.contains spReg then .refused .pointerOverlap
  else
    andThen (popLoop rs none s) fun x =>
    match x.2 with
    | none => .next x.1
    | some v => .next (x.1.setFlags (blankPatch (blank1 v)))

/-- PUSHF (R367): one word, FLAGS as before the instruction (log entry 53). -/
def pushFlags (s : State) : Out State := busPush .word (flagsWord s.flags) s

/-- POPF (R368): FLAGS from the byte behind the pad byte, which is not read. -/
def popFlags (s : State) : Out State :=
  andThen (busRead .byte (s.sp + 1#32) s) fun f => .next { f.2.writeReg spReg (f.2.sp + 2#32) with flags := f.1 }

/-- LINK #uimm8 (R380). -/
def linkFrame (imm : BitVec 8) (s : State) : Out State :=
  andThen (busPush .quad (s.reg fpReg) s) fun s1 =>
  let s2 := s1.writeReg fpReg s1.sp
  .next (s2.writeReg spReg (s2.sp - imm.setWidth 32))

/-- UNLINK (R381). -/
def unlinkFrame (s : State) : Out State :=
  let s1 := s.writeReg spReg (s.reg fpReg)
  andThen (busRead .quad s1.sp s1) fun v =>
  let s2 := v.2.writeReg fpReg v.1
  .next (s2.writeReg spReg (s2.sp + 4#32))

/-! ### Program control -/

/-- The target of a relative jump: the PC plus two times the signed offset (R137). -/
def relTarget {n : Nat} (pc : Quad) (rel : BitVec n) : Quad := pc + 2#32 * rel.signExtend 32

/-- JP rel (R422). -/
def jumpRelative {n : Nat} (rel : BitVec n) (s : State) : Out State := .next (jumpTo (relTarget s.pc rel) s)

/-- JP (Rs) (R421). -/
def jumpRegister (rs : Reg) (s : State) : Out State := .next (jumpTo (evenAddress (s.reg rs)) s)

/-- JPA (R423). -/
def jumpAbsolute (imm : Quad) (s : State) : Out State := .next (jumpTo (evenAddress imm) s)

/-- JP cc (R424). -/
def jumpConditional {n : Nat} (cc : CC) (rel : BitVec n) (s : State) : Out State :=
  if cond cc s.flags then jumpRelative rel s else .next s

/-- CALL rel (R429). -/
def callRelative {n : Nat} (rel : BitVec n) (s : State) : Out State :=
  andThen (busPush .quad s.pc s) fun t => .next (jumpTo (relTarget s.pc rel) t)

/-- CALL (Rs) (R430): the register is read after SP's decrement (D24). -/
def callRegister (rs : Reg) (s : State) : Out State :=
  andThen (busPush .quad s.pc s) fun t => .next (jumpTo (evenAddress (t.reg rs)) t)

/-- CALLA (R431). -/
def callAbsolute (imm : Quad) (s : State) : Out State :=
  andThen (busPush .quad s.pc s) fun t => .next (jumpTo (evenAddress imm) t)

/-- RET (R435). -/
def returnFromCall (s : State) : Out State :=
  andThen (busRead .quad s.sp s) fun r => loadPc r.1 (r.2.writeReg spReg (r.2.sp + 4#32))

/-- The request a chained IRET goes to: the highest pending one, if CIRQE is 1 and no ATM window is open (R436, D26). -/
def chainRequest (s : State) : Option IrqRequest :=
  if flagCirqe s.flags && s.atmCount == 0 then s.pending.head? else none

/-- IRET (R436). -/
def returnFromInterrupt (s : State) : Out State :=
  match chainRequest s with
  | none => normalReturn s
  | some q => chainedReturn q s

/-- DJNZ (R438): the jump looks at the new value of Rd, not at Z. -/
def decrementJump (rd : Reg) (rel : BitVec 4) (s : State) : Out State :=
  let a := s.reg rd
  let x := subFlags a 1#32 false
  let s1 := (s.writeReg rd x.r).setFlags (arithPatch x false false (blank1 a))
  if x.r = 0#32 then .next s1
  else .next (jumpTo (s.pc - 32#32 + 2#32 * rel.setWidth 32) s1)

/-- The vector quad of a TRAP: four times its number (R440). -/
def trapVector (vec : BitVec 8) : Quad := 4#32 * vec.setWidth 32

/-- TRAP #vector8 (R440): FLAGS is pushed as before the instruction (log entry 53) and not changed. -/
def softwareTrap (vec : BitVec 8) (s : State) : Out State :=
  andThen (busPush .word (flagsWord s.flags) s) fun s1 =>
  andThen (busPush .quad s1.pc s1) fun s2 =>
  busJump (trapVector vec) s2

/-- The address of a one-word instruction while it executes (R36). -/
def ownAddress (s : State) : Quad := s.pc - 2#32

/-- ILL (R445, R531). -/
def illegalWord (s : State) : Out State := illegalInstruction (ownAddress s) s

/-! ### CPU control -/

/-- BRK (R410): the debugger break, with the PC left at the BRK, or an illegal instruction. An Extend latch before a break is
outside the defined behaviour (R182). -/
def breakPoint (s : State) : Out State :=
  if s.dev.ocdBreaks then
    if s.extPending then .refused .extendUndefined
    else .next { s with runMode := .debugBreak, pc := ownAddress s }
  else illegalInstruction (ownAddress s) s

/-- ATM (R400). -/
def startAtomic (s : State) : Out State := .next { s with atmCount := 3 }

/-- NOFLAGS (R401). -/
def setNoflags (s : State) : Out State := .next { s with noflagsPending := true }

/-- The Extend prefix (R402). -/
def setExtend (s : State) : Out State := .next { s with extPending := true }

/-- WDT (R409): enable the timer and reload its counter; without a timer the reload value is 0. -/
def refreshWatchdog (s : State) : Out State :=
  .next { s with wdtEnabled := true, wdtCounter := s.dev.wdtPeriod.getD 0 }

/-- HALT and STOP (R405, R406). -/
def enterMode (m : RunMode) (s : State) : Out State := .next { s with runMode := m }

/-- EI and DI (R403, R404); NOFLAGS does not suppress them (R401 (c)). -/
def setInterruptEnable (b : Bool) (s : State) : Out State := .next { s with flags := setIrqe b s.flags }

/-- NOP (R407). -/
def noOperation (s : State) : Out State := .next s

end Sys2Proof.Machine
end

