-- ==== Sys2Proof/Machine/Arithmetic.lean ====
section
/-! DEFINITION. The meanings of ADD, SUB, CP (behind the Extend prefix ADC, SBC, CPC), CPCZ Rd and NEG (R205 to R213, R215, R222), one
definition per instruction over the operand forms of R204. -/

namespace Sys2Proof.Machine

/-- ADD Rd,#imm32 (R205, R207 with the latch). -/
def execAddImm32 (rd : Reg) (imm : BitVec 32) (s : State) : Out State := bop .add (.imm32 rd imm) s

/-- ADD Rd,#uimm16 (R205, R207 with the latch). -/
def execAddUimm16 (rd : Reg) (imm : BitVec 16) (s : State) : Out State := bop .add (.uimm16 rd imm) s

/-- ADD Rd,Rs (R205, R207 with the latch). -/
def execAddReg (rd : Reg) (rs : Reg) (s : State) : Out State := bop .add (.reg rd rs) s

/-- ADD Rd,addr16 (R205, R207 with the latch). -/
def execAddAddr16 (rd : Reg) (addr : BitVec 16) (s : State) : Out State := bop .add (.load .q rd (.addr16 addr)) s

/-- ADD Rd,addr32 (R205, R207 with the latch). -/
def execAddAddr32 (rd : Reg) (addr : BitVec 32) (s : State) : Out State := bop .add (.load .q rd (.addr32 addr)) s

/-- ADD Rd,soff13(Rs) (R205, R207 with the latch). -/
def execAddInd (rd : Reg) (rs : Reg) (off : BitVec 13) (s : State) : Out State :=
  bop .add (.load .q rd (.ind rs off)) s

/-- ADD.SW Rd,addr16 (R205, R207 with the latch). -/
def execAddSWAddr16 (rd : Reg) (addr : BitVec 16) (s : State) : Out State := bop .add (.load .sw rd (.addr16 addr)) s

/-- ADD.SW Rd,addr32 (R205, R207 with the latch). -/
def execAddSWAddr32 (rd : Reg) (addr : BitVec 32) (s : State) : Out State := bop .add (.load .sw rd (.addr32 addr)) s

/-- ADD.SW Rd,soff13(Rs) (R205, R207 with the latch). -/
def execAddSWInd (rd : Reg) (rs : Reg) (off : BitVec 13) (s : State) : Out State :=
  bop .add (.load .sw rd (.ind rs off)) s

/-- ADD.UW Rd,addr16 (R205, R207 with the latch). -/
def execAddUWAddr16 (rd : Reg) (addr : BitVec 16) (s : State) : Out State := bop .add (.load .uw rd (.addr16 addr)) s

/-- ADD.UW Rd,addr32 (R205, R207 with the latch). -/
def execAddUWAddr32 (rd : Reg) (addr : BitVec 32) (s : State) : Out State := bop .add (.load .uw rd (.addr32 addr)) s

/-- ADD.UW Rd,soff13(Rs) (R205, R207 with the latch). -/
def execAddUWInd (rd : Reg) (rs : Reg) (off : BitVec 13) (s : State) : Out State :=
  bop .add (.load .uw rd (.ind rs off)) s

/-- ADD.SB Rd,addr16 (R205, R207 with the latch). -/
def execAddSBAddr16 (rd : Reg) (addr : BitVec 16) (s : State) : Out State := bop .add (.load .sb rd (.addr16 addr)) s

/-- ADD.SB Rd,addr32 (R205, R207 with the latch). -/
def execAddSBAddr32 (rd : Reg) (addr : BitVec 32) (s : State) : Out State := bop .add (.load .sb rd (.addr32 addr)) s

/-- ADD.SB Rd,soff13(Rs) (R205, R207 with the latch). -/
def execAddSBInd (rd : Reg) (rs : Reg) (off : BitVec 13) (s : State) : Out State :=
  bop .add (.load .sb rd (.ind rs off)) s

/-- ADD.UB Rd,addr16 (R205, R207 with the latch). -/
def execAddUBAddr16 (rd : Reg) (addr : BitVec 16) (s : State) : Out State := bop .add (.load .ub rd (.addr16 addr)) s

/-- ADD.UB Rd,addr32 (R205, R207 with the latch). -/
def execAddUBAddr32 (rd : Reg) (addr : BitVec 32) (s : State) : Out State := bop .add (.load .ub rd (.addr32 addr)) s

/-- ADD.UB Rd,soff13(Rs) (R205, R207 with the latch). -/
def execAddUBInd (rd : Reg) (rs : Reg) (off : BitVec 13) (s : State) : Out State :=
  bop .add (.load .ub rd (.ind rs off)) s

/-- ADD addr16,Rs (R205, R207 with the latch). -/
def execAddToAddr16 (addr : BitVec 16) (rs : Reg) (s : State) : Out State :=
  bop .add (.store .quad (.addr16 addr) rs) s

/-- ADD addr32,Rs (R205, R207 with the latch). -/
def execAddToAddr32 (addr : BitVec 32) (rs : Reg) (s : State) : Out State :=
  bop .add (.store .quad (.addr32 addr) rs) s

/-- ADD soff13(Rd),Rs (R205, R207 with the latch). -/
def execAddToInd (rd : Reg) (off : BitVec 13) (rs : Reg) (s : State) : Out State :=
  bop .add (.store .quad (.ind rd off) rs) s

/-- ADD.W addr16,Rs (R205, R207 with the latch). -/
def execAddWToAddr16 (addr : BitVec 16) (rs : Reg) (s : State) : Out State :=
  bop .add (.store .word (.addr16 addr) rs) s

/-- ADD.W addr32,Rs (R205, R207 with the latch). -/
def execAddWToAddr32 (addr : BitVec 32) (rs : Reg) (s : State) : Out State :=
  bop .add (.store .word (.addr32 addr) rs) s

/-- ADD.W soff13(Rd),Rs (R205, R207 with the latch). -/
def execAddWToInd (rd : Reg) (off : BitVec 13) (rs : Reg) (s : State) : Out State :=
  bop .add (.store .word (.ind rd off) rs) s

/-- ADD.B addr16,Rs (R205, R207 with the latch). -/
def execAddBToAddr16 (addr : BitVec 16) (rs : Reg) (s : State) : Out State :=
  bop .add (.store .byte (.addr16 addr) rs) s

/-- ADD.B addr32,Rs (R205, R207 with the latch). -/
def execAddBToAddr32 (addr : BitVec 32) (rs : Reg) (s : State) : Out State :=
  bop .add (.store .byte (.addr32 addr) rs) s

/-- ADD.B soff13(Rd),Rs (R205, R207 with the latch). -/
def execAddBToInd (rd : Reg) (off : BitVec 13) (rs : Reg) (s : State) : Out State :=
  bop .add (.store .byte (.ind rd off) rs) s

/-- ADD (Rd),#imm32 (R205, R207 with the latch). -/
def execAddMemImm32 (rd : Reg) (imm : BitVec 32) (s : State) : Out State := bop .add (.memImm32 rd imm) s

/-- ADD (Rd),#simm16 (R205, R207 with the latch). -/
def execAddMemSimm16 (rd : Reg) (imm : BitVec 16) (s : State) : Out State := bop .add (.memSimm16 rd imm) s

/-- ADD.W (Rd),#imm16 (R205, R207 with the latch). -/
def execAddWMemImm16 (rd : Reg) (imm : BitVec 16) (s : State) : Out State := bop .add (.memWImm16 rd imm) s

/-- ADD.B (Rd),#imm8 (R205, R207 with the latch). -/
def execAddBMemImm8 (rd : Reg) (imm : BitVec 8) (s : State) : Out State := bop .add (.memBImm8 rd imm) s

/-- SUB Rd,#imm32 (R208, R209 with the latch). -/
def execSubImm32 (rd : Reg) (imm : BitVec 32) (s : State) : Out State := bop .sub (.imm32 rd imm) s

/-- SUB Rd,#uimm16 (R208, R209 with the latch). -/
def execSubUimm16 (rd : Reg) (imm : BitVec 16) (s : State) : Out State := bop .sub (.uimm16 rd imm) s

/-- SUB Rd,Rs (R208, R209 with the latch). -/
def execSubReg (rd : Reg) (rs : Reg) (s : State) : Out State := bop .sub (.reg rd rs) s

/-- SUB Rd,addr16 (R208, R209 with the latch). -/
def execSubAddr16 (rd : Reg) (addr : BitVec 16) (s : State) : Out State := bop .sub (.load .q rd (.addr16 addr)) s

/-- SUB Rd,addr32 (R208, R209 with the latch). -/
def execSubAddr32 (rd : Reg) (addr : BitVec 32) (s : State) : Out State := bop .sub (.load .q rd (.addr32 addr)) s

/-- SUB Rd,soff13(Rs) (R208, R209 with the latch). -/
def execSubInd (rd : Reg) (rs : Reg) (off : BitVec 13) (s : State) : Out State :=
  bop .sub (.load .q rd (.ind rs off)) s

/-- SUB.SW Rd,addr16 (R208, R209 with the latch). -/
def execSubSWAddr16 (rd : Reg) (addr : BitVec 16) (s : State) : Out State := bop .sub (.load .sw rd (.addr16 addr)) s

/-- SUB.SW Rd,addr32 (R208, R209 with the latch). -/
def execSubSWAddr32 (rd : Reg) (addr : BitVec 32) (s : State) : Out State := bop .sub (.load .sw rd (.addr32 addr)) s

/-- SUB.SW Rd,soff13(Rs) (R208, R209 with the latch). -/
def execSubSWInd (rd : Reg) (rs : Reg) (off : BitVec 13) (s : State) : Out State :=
  bop .sub (.load .sw rd (.ind rs off)) s

/-- SUB.UW Rd,addr16 (R208, R209 with the latch). -/
def execSubUWAddr16 (rd : Reg) (addr : BitVec 16) (s : State) : Out State := bop .sub (.load .uw rd (.addr16 addr)) s

/-- SUB.UW Rd,addr32 (R208, R209 with the latch). -/
def execSubUWAddr32 (rd : Reg) (addr : BitVec 32) (s : State) : Out State := bop .sub (.load .uw rd (.addr32 addr)) s

/-- SUB.UW Rd,soff13(Rs) (R208, R209 with the latch). -/
def execSubUWInd (rd : Reg) (rs : Reg) (off : BitVec 13) (s : State) : Out State :=
  bop .sub (.load .uw rd (.ind rs off)) s

/-- SUB.SB Rd,addr16 (R208, R209 with the latch). -/
def execSubSBAddr16 (rd : Reg) (addr : BitVec 16) (s : State) : Out State := bop .sub (.load .sb rd (.addr16 addr)) s

/-- SUB.SB Rd,addr32 (R208, R209 with the latch). -/
def execSubSBAddr32 (rd : Reg) (addr : BitVec 32) (s : State) : Out State := bop .sub (.load .sb rd (.addr32 addr)) s

/-- SUB.SB Rd,soff13(Rs) (R208, R209 with the latch). -/
def execSubSBInd (rd : Reg) (rs : Reg) (off : BitVec 13) (s : State) : Out State :=
  bop .sub (.load .sb rd (.ind rs off)) s

/-- SUB.UB Rd,addr16 (R208, R209 with the latch). -/
def execSubUBAddr16 (rd : Reg) (addr : BitVec 16) (s : State) : Out State := bop .sub (.load .ub rd (.addr16 addr)) s

/-- SUB.UB Rd,addr32 (R208, R209 with the latch). -/
def execSubUBAddr32 (rd : Reg) (addr : BitVec 32) (s : State) : Out State := bop .sub (.load .ub rd (.addr32 addr)) s

/-- SUB.UB Rd,soff13(Rs) (R208, R209 with the latch). -/
def execSubUBInd (rd : Reg) (rs : Reg) (off : BitVec 13) (s : State) : Out State :=
  bop .sub (.load .ub rd (.ind rs off)) s

/-- SUB addr16,Rs (R208, R209 with the latch). -/
def execSubToAddr16 (addr : BitVec 16) (rs : Reg) (s : State) : Out State :=
  bop .sub (.store .quad (.addr16 addr) rs) s

/-- SUB addr32,Rs (R208, R209 with the latch). -/
def execSubToAddr32 (addr : BitVec 32) (rs : Reg) (s : State) : Out State :=
  bop .sub (.store .quad (.addr32 addr) rs) s

/-- SUB soff13(Rd),Rs (R208, R209 with the latch). -/
def execSubToInd (rd : Reg) (off : BitVec 13) (rs : Reg) (s : State) : Out State :=
  bop .sub (.store .quad (.ind rd off) rs) s

/-- SUB.W addr16,Rs (R208, R209 with the latch). -/
def execSubWToAddr16 (addr : BitVec 16) (rs : Reg) (s : State) : Out State :=
  bop .sub (.store .word (.addr16 addr) rs) s

/-- SUB.W addr32,Rs (R208, R209 with the latch). -/
def execSubWToAddr32 (addr : BitVec 32) (rs : Reg) (s : State) : Out State :=
  bop .sub (.store .word (.addr32 addr) rs) s

/-- SUB.W soff13(Rd),Rs (R208, R209 with the latch). -/
def execSubWToInd (rd : Reg) (off : BitVec 13) (rs : Reg) (s : State) : Out State :=
  bop .sub (.store .word (.ind rd off) rs) s

/-- SUB.B addr16,Rs (R208, R209 with the latch). -/
def execSubBToAddr16 (addr : BitVec 16) (rs : Reg) (s : State) : Out State :=
  bop .sub (.store .byte (.addr16 addr) rs) s

/-- SUB.B addr32,Rs (R208, R209 with the latch). -/
def execSubBToAddr32 (addr : BitVec 32) (rs : Reg) (s : State) : Out State :=
  bop .sub (.store .byte (.addr32 addr) rs) s

/-- SUB.B soff13(Rd),Rs (R208, R209 with the latch). -/
def execSubBToInd (rd : Reg) (off : BitVec 13) (rs : Reg) (s : State) : Out State :=
  bop .sub (.store .byte (.ind rd off) rs) s

/-- SUB (Rd),#imm32 (R208, R209 with the latch). -/
def execSubMemImm32 (rd : Reg) (imm : BitVec 32) (s : State) : Out State := bop .sub (.memImm32 rd imm) s

/-- SUB (Rd),#simm16 (R208, R209 with the latch). -/
def execSubMemSimm16 (rd : Reg) (imm : BitVec 16) (s : State) : Out State := bop .sub (.memSimm16 rd imm) s

/-- SUB.W (Rd),#imm16 (R208, R209 with the latch). -/
def execSubWMemImm16 (rd : Reg) (imm : BitVec 16) (s : State) : Out State := bop .sub (.memWImm16 rd imm) s

/-- SUB.B (Rd),#imm8 (R208, R209 with the latch). -/
def execSubBMemImm8 (rd : Reg) (imm : BitVec 8) (s : State) : Out State := bop .sub (.memBImm8 rd imm) s

/-- CP Rd,#imm32 (R213, R211 with the latch). -/
def execCpImm32 (rd : Reg) (imm : BitVec 32) (s : State) : Out State := bop .cp (.imm32 rd imm) s

/-- CP Rd,#uimm16 (R213, R211 with the latch). -/
def execCpUimm16 (rd : Reg) (imm : BitVec 16) (s : State) : Out State := bop .cp (.uimm16 rd imm) s

/-- CP Rd,Rs (R213, R211 with the latch). -/
def execCpReg (rd : Reg) (rs : Reg) (s : State) : Out State := bop .cp (.reg rd rs) s

/-- CP Rd,addr16 (R213, R211 with the latch). -/
def execCpAddr16 (rd : Reg) (addr : BitVec 16) (s : State) : Out State := bop .cp (.load .q rd (.addr16 addr)) s

/-- CP Rd,addr32 (R213, R211 with the latch). -/
def execCpAddr32 (rd : Reg) (addr : BitVec 32) (s : State) : Out State := bop .cp (.load .q rd (.addr32 addr)) s

/-- CP Rd,soff13(Rs) (R213, R211 with the latch). -/
def execCpInd (rd : Reg) (rs : Reg) (off : BitVec 13) (s : State) : Out State := bop .cp (.load .q rd (.ind rs off)) s

/-- CP.SW Rd,addr16 (R213, R211 with the latch). -/
def execCpSWAddr16 (rd : Reg) (addr : BitVec 16) (s : State) : Out State := bop .cp (.load .sw rd (.addr16 addr)) s

/-- CP.SW Rd,addr32 (R213, R211 with the latch). -/
def execCpSWAddr32 (rd : Reg) (addr : BitVec 32) (s : State) : Out State := bop .cp (.load .sw rd (.addr32 addr)) s

/-- CP.SW Rd,soff13(Rs) (R213, R211 with the latch). -/
def execCpSWInd (rd : Reg) (rs : Reg) (off : BitVec 13) (s : State) : Out State :=
  bop .cp (.load .sw rd (.ind rs off)) s

/-- CP.UW Rd,addr16 (R213, R211 with the latch). -/
def execCpUWAddr16 (rd : Reg) (addr : BitVec 16) (s : State) : Out State := bop .cp (.load .uw rd (.addr16 addr)) s

/-- CP.UW Rd,addr32 (R213, R211 with the latch). -/
def execCpUWAddr32 (rd : Reg) (addr : BitVec 32) (s : State) : Out State := bop .cp (.load .uw rd (.addr32 addr)) s

/-- CP.UW Rd,soff13(Rs) (R213, R211 with the latch). -/
def execCpUWInd (rd : Reg) (rs : Reg) (off : BitVec 13) (s : State) : Out State :=
  bop .cp (.load .uw rd (.ind rs off)) s

/-- CP.SB Rd,addr16 (R213, R211 with the latch). -/
def execCpSBAddr16 (rd : Reg) (addr : BitVec 16) (s : State) : Out State := bop .cp (.load .sb rd (.addr16 addr)) s

/-- CP.SB Rd,addr32 (R213, R211 with the latch). -/
def execCpSBAddr32 (rd : Reg) (addr : BitVec 32) (s : State) : Out State := bop .cp (.load .sb rd (.addr32 addr)) s

/-- CP.SB Rd,soff13(Rs) (R213, R211 with the latch). -/
def execCpSBInd (rd : Reg) (rs : Reg) (off : BitVec 13) (s : State) : Out State :=
  bop .cp (.load .sb rd (.ind rs off)) s

/-- CP.UB Rd,addr16 (R213, R211 with the latch). -/
def execCpUBAddr16 (rd : Reg) (addr : BitVec 16) (s : State) : Out State := bop .cp (.load .ub rd (.addr16 addr)) s

/-- CP.UB Rd,addr32 (R213, R211 with the latch). -/
def execCpUBAddr32 (rd : Reg) (addr : BitVec 32) (s : State) : Out State := bop .cp (.load .ub rd (.addr32 addr)) s

/-- CP.UB Rd,soff13(Rs) (R213, R211 with the latch). -/
def execCpUBInd (rd : Reg) (rs : Reg) (off : BitVec 13) (s : State) : Out State :=
  bop .cp (.load .ub rd (.ind rs off)) s

/-- CP addr16,Rs (R213, R211 with the latch). -/
def execCpToAddr16 (addr : BitVec 16) (rs : Reg) (s : State) : Out State := bop .cp (.store .quad (.addr16 addr) rs) s

/-- CP addr32,Rs (R213, R211 with the latch). -/
def execCpToAddr32 (addr : BitVec 32) (rs : Reg) (s : State) : Out State := bop .cp (.store .quad (.addr32 addr) rs) s

/-- CP soff13(Rd),Rs (R213, R211 with the latch). -/
def execCpToInd (rd : Reg) (off : BitVec 13) (rs : Reg) (s : State) : Out State :=
  bop .cp (.store .quad (.ind rd off) rs) s

/-- CP.W addr16,Rs (R213, R211 with the latch). -/
def execCpWToAddr16 (addr : BitVec 16) (rs : Reg) (s : State) : Out State :=
  bop .cp (.store .word (.addr16 addr) rs) s

/-- CP.W addr32,Rs (R213, R211 with the latch). -/
def execCpWToAddr32 (addr : BitVec 32) (rs : Reg) (s : State) : Out State :=
  bop .cp (.store .word (.addr32 addr) rs) s

/-- CP.W soff13(Rd),Rs (R213, R211 with the latch). -/
def execCpWToInd (rd : Reg) (off : BitVec 13) (rs : Reg) (s : State) : Out State :=
  bop .cp (.store .word (.ind rd off) rs) s

/-- CP.B addr16,Rs (R213, R211 with the latch). -/
def execCpBToAddr16 (addr : BitVec 16) (rs : Reg) (s : State) : Out State :=
  bop .cp (.store .byte (.addr16 addr) rs) s

/-- CP.B addr32,Rs (R213, R211 with the latch). -/
def execCpBToAddr32 (addr : BitVec 32) (rs : Reg) (s : State) : Out State :=
  bop .cp (.store .byte (.addr32 addr) rs) s

/-- CP.B soff13(Rd),Rs (R213, R211 with the latch). -/
def execCpBToInd (rd : Reg) (off : BitVec 13) (rs : Reg) (s : State) : Out State :=
  bop .cp (.store .byte (.ind rd off) rs) s

/-- CP (Rd),#imm32 (R213, R211 with the latch). -/
def execCpMemImm32 (rd : Reg) (imm : BitVec 32) (s : State) : Out State := bop .cp (.memImm32 rd imm) s

/-- CP (Rd),#simm16 (R213, R211 with the latch). -/
def execCpMemSimm16 (rd : Reg) (imm : BitVec 16) (s : State) : Out State := bop .cp (.memSimm16 rd imm) s

/-- CP.W (Rd),#imm16 (R213, R211 with the latch). -/
def execCpWMemImm16 (rd : Reg) (imm : BitVec 16) (s : State) : Out State := bop .cp (.memWImm16 rd imm) s

/-- CP.B (Rd),#imm8 (R213, R211 with the latch). -/
def execCpBMemImm8 (rd : Reg) (imm : BitVec 8) (s : State) : Out State := bop .cp (.memBImm8 rd imm) s

/-- ADD Rd,Rs1+Rs2 (R206, R207 with the latch). -/
def execAddReg3 (rd : Reg) (rs1 : Reg) (rs2 : Reg) (s : State) : Out State := addThree rd rs1 rs2 s

/-- ADD Rd,#simm8 (R205, R207 with the latch). -/
def execAddSimm8 (rd : Reg) (imm : BitVec 8) (s : State) : Out State := addShort rd imm s

/-- CP Rd,#simm8 (R213, R211 with the latch). -/
def execCpSimm8 (rd : Reg) (imm : BitVec 8) (s : State) : Out State := compareShort rd imm s

/-- NEG Rd (R222). -/
def execNeg (rd : Reg) (s : State) : Out State := negate rd s

/-- CPCZ Rd (R215). -/
def execCpczReg (rd : Reg) (s : State) : Out State := compareZeroCarry rd s

end Sys2Proof.Machine
end

