-- ==== Sys2Proof/Machine/BitTest.lean ====
section
/-! DEFINITION. The meanings of TM and TCM (R280 to R282), one definition per instruction over the operand forms of R204. -/

namespace Sys2Proof.Machine

/-- TM Rd,#imm32 (R281). -/
def execTmImm32 (rd : Reg) (imm : BitVec 32) (s : State) : Out State := bop .tm (.imm32 rd imm) s

/-- TM Rd,#uimm16 (R281). -/
def execTmUimm16 (rd : Reg) (imm : BitVec 16) (s : State) : Out State := bop .tm (.uimm16 rd imm) s

/-- TM Rd,Rs (R281). -/
def execTmReg (rd : Reg) (rs : Reg) (s : State) : Out State := bop .tm (.reg rd rs) s

/-- TM Rd,addr16 (R281). -/
def execTmAddr16 (rd : Reg) (addr : BitVec 16) (s : State) : Out State := bop .tm (.load .q rd (.addr16 addr)) s

/-- TM Rd,addr32 (R281). -/
def execTmAddr32 (rd : Reg) (addr : BitVec 32) (s : State) : Out State := bop .tm (.load .q rd (.addr32 addr)) s

/-- TM Rd,soff13(Rs) (R281). -/
def execTmInd (rd : Reg) (rs : Reg) (off : BitVec 13) (s : State) : Out State := bop .tm (.load .q rd (.ind rs off)) s

/-- TM.SW Rd,addr16 (R281). -/
def execTmSWAddr16 (rd : Reg) (addr : BitVec 16) (s : State) : Out State := bop .tm (.load .sw rd (.addr16 addr)) s

/-- TM.SW Rd,addr32 (R281). -/
def execTmSWAddr32 (rd : Reg) (addr : BitVec 32) (s : State) : Out State := bop .tm (.load .sw rd (.addr32 addr)) s

/-- TM.SW Rd,soff13(Rs) (R281). -/
def execTmSWInd (rd : Reg) (rs : Reg) (off : BitVec 13) (s : State) : Out State :=
  bop .tm (.load .sw rd (.ind rs off)) s

/-- TM.UW Rd,addr16 (R281). -/
def execTmUWAddr16 (rd : Reg) (addr : BitVec 16) (s : State) : Out State := bop .tm (.load .uw rd (.addr16 addr)) s

/-- TM.UW Rd,addr32 (R281). -/
def execTmUWAddr32 (rd : Reg) (addr : BitVec 32) (s : State) : Out State := bop .tm (.load .uw rd (.addr32 addr)) s

/-- TM.UW Rd,soff13(Rs) (R281). -/
def execTmUWInd (rd : Reg) (rs : Reg) (off : BitVec 13) (s : State) : Out State :=
  bop .tm (.load .uw rd (.ind rs off)) s

/-- TM.SB Rd,addr16 (R281). -/
def execTmSBAddr16 (rd : Reg) (addr : BitVec 16) (s : State) : Out State := bop .tm (.load .sb rd (.addr16 addr)) s

/-- TM.SB Rd,addr32 (R281). -/
def execTmSBAddr32 (rd : Reg) (addr : BitVec 32) (s : State) : Out State := bop .tm (.load .sb rd (.addr32 addr)) s

/-- TM.SB Rd,soff13(Rs) (R281). -/
def execTmSBInd (rd : Reg) (rs : Reg) (off : BitVec 13) (s : State) : Out State :=
  bop .tm (.load .sb rd (.ind rs off)) s

/-- TM.UB Rd,addr16 (R281). -/
def execTmUBAddr16 (rd : Reg) (addr : BitVec 16) (s : State) : Out State := bop .tm (.load .ub rd (.addr16 addr)) s

/-- TM.UB Rd,addr32 (R281). -/
def execTmUBAddr32 (rd : Reg) (addr : BitVec 32) (s : State) : Out State := bop .tm (.load .ub rd (.addr32 addr)) s

/-- TM.UB Rd,soff13(Rs) (R281). -/
def execTmUBInd (rd : Reg) (rs : Reg) (off : BitVec 13) (s : State) : Out State :=
  bop .tm (.load .ub rd (.ind rs off)) s

/-- TM addr16,Rs (R281). -/
def execTmToAddr16 (addr : BitVec 16) (rs : Reg) (s : State) : Out State := bop .tm (.store .quad (.addr16 addr) rs) s

/-- TM addr32,Rs (R281). -/
def execTmToAddr32 (addr : BitVec 32) (rs : Reg) (s : State) : Out State := bop .tm (.store .quad (.addr32 addr) rs) s

/-- TM soff13(Rd),Rs (R281). -/
def execTmToInd (rd : Reg) (off : BitVec 13) (rs : Reg) (s : State) : Out State :=
  bop .tm (.store .quad (.ind rd off) rs) s

/-- TM.W addr16,Rs (R281). -/
def execTmWToAddr16 (addr : BitVec 16) (rs : Reg) (s : State) : Out State :=
  bop .tm (.store .word (.addr16 addr) rs) s

/-- TM.W addr32,Rs (R281). -/
def execTmWToAddr32 (addr : BitVec 32) (rs : Reg) (s : State) : Out State :=
  bop .tm (.store .word (.addr32 addr) rs) s

/-- TM.W soff13(Rd),Rs (R281). -/
def execTmWToInd (rd : Reg) (off : BitVec 13) (rs : Reg) (s : State) : Out State :=
  bop .tm (.store .word (.ind rd off) rs) s

/-- TM.B addr16,Rs (R281). -/
def execTmBToAddr16 (addr : BitVec 16) (rs : Reg) (s : State) : Out State :=
  bop .tm (.store .byte (.addr16 addr) rs) s

/-- TM.B addr32,Rs (R281). -/
def execTmBToAddr32 (addr : BitVec 32) (rs : Reg) (s : State) : Out State :=
  bop .tm (.store .byte (.addr32 addr) rs) s

/-- TM.B soff13(Rd),Rs (R281). -/
def execTmBToInd (rd : Reg) (off : BitVec 13) (rs : Reg) (s : State) : Out State :=
  bop .tm (.store .byte (.ind rd off) rs) s

/-- TM (Rd),#imm32 (R281). -/
def execTmMemImm32 (rd : Reg) (imm : BitVec 32) (s : State) : Out State := bop .tm (.memImm32 rd imm) s

/-- TM (Rd),#simm16 (R281). -/
def execTmMemSimm16 (rd : Reg) (imm : BitVec 16) (s : State) : Out State := bop .tm (.memSimm16 rd imm) s

/-- TM.W (Rd),#imm16 (R281). -/
def execTmWMemImm16 (rd : Reg) (imm : BitVec 16) (s : State) : Out State := bop .tm (.memWImm16 rd imm) s

/-- TM.B (Rd),#imm8 (R281). -/
def execTmBMemImm8 (rd : Reg) (imm : BitVec 8) (s : State) : Out State := bop .tm (.memBImm8 rd imm) s

/-- TCM Rd,#imm32 (R282). -/
def execTcmImm32 (rd : Reg) (imm : BitVec 32) (s : State) : Out State := bop .tcm (.imm32 rd imm) s

/-- TCM Rd,#uimm16 (R282). -/
def execTcmUimm16 (rd : Reg) (imm : BitVec 16) (s : State) : Out State := bop .tcm (.uimm16 rd imm) s

/-- TCM Rd,Rs (R282). -/
def execTcmReg (rd : Reg) (rs : Reg) (s : State) : Out State := bop .tcm (.reg rd rs) s

/-- TCM Rd,addr16 (R282). -/
def execTcmAddr16 (rd : Reg) (addr : BitVec 16) (s : State) : Out State := bop .tcm (.load .q rd (.addr16 addr)) s

/-- TCM Rd,addr32 (R282). -/
def execTcmAddr32 (rd : Reg) (addr : BitVec 32) (s : State) : Out State := bop .tcm (.load .q rd (.addr32 addr)) s

/-- TCM Rd,soff13(Rs) (R282). -/
def execTcmInd (rd : Reg) (rs : Reg) (off : BitVec 13) (s : State) : Out State :=
  bop .tcm (.load .q rd (.ind rs off)) s

/-- TCM.SW Rd,addr16 (R282). -/
def execTcmSWAddr16 (rd : Reg) (addr : BitVec 16) (s : State) : Out State := bop .tcm (.load .sw rd (.addr16 addr)) s

/-- TCM.SW Rd,addr32 (R282). -/
def execTcmSWAddr32 (rd : Reg) (addr : BitVec 32) (s : State) : Out State := bop .tcm (.load .sw rd (.addr32 addr)) s

/-- TCM.SW Rd,soff13(Rs) (R282). -/
def execTcmSWInd (rd : Reg) (rs : Reg) (off : BitVec 13) (s : State) : Out State :=
  bop .tcm (.load .sw rd (.ind rs off)) s

/-- TCM.UW Rd,addr16 (R282). -/
def execTcmUWAddr16 (rd : Reg) (addr : BitVec 16) (s : State) : Out State := bop .tcm (.load .uw rd (.addr16 addr)) s

/-- TCM.UW Rd,addr32 (R282). -/
def execTcmUWAddr32 (rd : Reg) (addr : BitVec 32) (s : State) : Out State := bop .tcm (.load .uw rd (.addr32 addr)) s

/-- TCM.UW Rd,soff13(Rs) (R282). -/
def execTcmUWInd (rd : Reg) (rs : Reg) (off : BitVec 13) (s : State) : Out State :=
  bop .tcm (.load .uw rd (.ind rs off)) s

/-- TCM.SB Rd,addr16 (R282). -/
def execTcmSBAddr16 (rd : Reg) (addr : BitVec 16) (s : State) : Out State := bop .tcm (.load .sb rd (.addr16 addr)) s

/-- TCM.SB Rd,addr32 (R282). -/
def execTcmSBAddr32 (rd : Reg) (addr : BitVec 32) (s : State) : Out State := bop .tcm (.load .sb rd (.addr32 addr)) s

/-- TCM.SB Rd,soff13(Rs) (R282). -/
def execTcmSBInd (rd : Reg) (rs : Reg) (off : BitVec 13) (s : State) : Out State :=
  bop .tcm (.load .sb rd (.ind rs off)) s

/-- TCM.UB Rd,addr16 (R282). -/
def execTcmUBAddr16 (rd : Reg) (addr : BitVec 16) (s : State) : Out State := bop .tcm (.load .ub rd (.addr16 addr)) s

/-- TCM.UB Rd,addr32 (R282). -/
def execTcmUBAddr32 (rd : Reg) (addr : BitVec 32) (s : State) : Out State := bop .tcm (.load .ub rd (.addr32 addr)) s

/-- TCM.UB Rd,soff13(Rs) (R282). -/
def execTcmUBInd (rd : Reg) (rs : Reg) (off : BitVec 13) (s : State) : Out State :=
  bop .tcm (.load .ub rd (.ind rs off)) s

/-- TCM addr16,Rs (R282). -/
def execTcmToAddr16 (addr : BitVec 16) (rs : Reg) (s : State) : Out State :=
  bop .tcm (.store .quad (.addr16 addr) rs) s

/-- TCM addr32,Rs (R282). -/
def execTcmToAddr32 (addr : BitVec 32) (rs : Reg) (s : State) : Out State :=
  bop .tcm (.store .quad (.addr32 addr) rs) s

/-- TCM soff13(Rd),Rs (R282). -/
def execTcmToInd (rd : Reg) (off : BitVec 13) (rs : Reg) (s : State) : Out State :=
  bop .tcm (.store .quad (.ind rd off) rs) s

/-- TCM.W addr16,Rs (R282). -/
def execTcmWToAddr16 (addr : BitVec 16) (rs : Reg) (s : State) : Out State :=
  bop .tcm (.store .word (.addr16 addr) rs) s

/-- TCM.W addr32,Rs (R282). -/
def execTcmWToAddr32 (addr : BitVec 32) (rs : Reg) (s : State) : Out State :=
  bop .tcm (.store .word (.addr32 addr) rs) s

/-- TCM.W soff13(Rd),Rs (R282). -/
def execTcmWToInd (rd : Reg) (off : BitVec 13) (rs : Reg) (s : State) : Out State :=
  bop .tcm (.store .word (.ind rd off) rs) s

/-- TCM.B addr16,Rs (R282). -/
def execTcmBToAddr16 (addr : BitVec 16) (rs : Reg) (s : State) : Out State :=
  bop .tcm (.store .byte (.addr16 addr) rs) s

/-- TCM.B addr32,Rs (R282). -/
def execTcmBToAddr32 (addr : BitVec 32) (rs : Reg) (s : State) : Out State :=
  bop .tcm (.store .byte (.addr32 addr) rs) s

/-- TCM.B soff13(Rd),Rs (R282). -/
def execTcmBToInd (rd : Reg) (off : BitVec 13) (rs : Reg) (s : State) : Out State :=
  bop .tcm (.store .byte (.ind rd off) rs) s

/-- TCM (Rd),#imm32 (R282). -/
def execTcmMemImm32 (rd : Reg) (imm : BitVec 32) (s : State) : Out State := bop .tcm (.memImm32 rd imm) s

/-- TCM (Rd),#simm16 (R282). -/
def execTcmMemSimm16 (rd : Reg) (imm : BitVec 16) (s : State) : Out State := bop .tcm (.memSimm16 rd imm) s

/-- TCM.W (Rd),#imm16 (R282). -/
def execTcmWMemImm16 (rd : Reg) (imm : BitVec 16) (s : State) : Out State := bop .tcm (.memWImm16 rd imm) s

/-- TCM.B (Rd),#imm8 (R282). -/
def execTcmBMemImm8 (rd : Reg) (imm : BitVec 8) (s : State) : Out State := bop .tcm (.memBImm8 rd imm) s

end Sys2Proof.Machine
end

