-- ==== Sys2Proof/Machine/CpuControl.lean ====
section
/-! DEFINITION. The meanings of the prefixes, EI, DI, HALT, STOP, NOP, WDT and BRK (R400 to R410). -/

namespace Sys2Proof.Machine

/-- BRK (R410). -/
def execBrk (s : State) : Out State := breakPoint s

/-- ATM (R400). -/
def execAtm (s : State) : Out State := startAtomic s

/-- NOFLAGS (R401). -/
def execNoflags (s : State) : Out State := setNoflags s

/-- EXTEND (prefix 0007H) (R402). -/
def execExtend (s : State) : Out State := setExtend s

/-- WDT (R409). -/
def execWdt (s : State) : Out State := refreshWatchdog s

/-- STOP (R406). -/
def execStop (s : State) : Out State := enterMode .stop s

/-- HALT (R405). -/
def execHalt (s : State) : Out State := enterMode .halt s

/-- EI (R404). -/
def execEi (s : State) : Out State := setInterruptEnable true s

/-- DI (R403). -/
def execDi (s : State) : Out State := setInterruptEnable false s

/-- NOP (R407). -/
def execNop (s : State) : Out State := noOperation s

end Sys2Proof.Machine
end

