-- ==== Sys2Proof/Machine/Load.lean ====
section
/-! DEFINITION. The meanings of LD with a register destination, LD cc, LDES, LEA and EXT (R310 to R319, R338 to R345). -/

namespace Sys2Proof.Machine

/-- LD Rd,soff14(PC) (R316). -/
def execLdPc (rd : Reg) (off : BitVec 14) (s : State) : Out State := load .q rd (.pc off) s

/-- LD Rd,addr16 (R314). -/
def execLdAddr16 (rd : Reg) (addr : BitVec 16) (s : State) : Out State := load .q rd (.addr16 addr) s

/-- LD Rd,addr32 (R314). -/
def execLdAddr32 (rd : Reg) (addr : BitVec 32) (s : State) : Out State := load .q rd (.addr32 addr) s

/-- LD Rd,(Rs) (R315). -/
def execLdMem (rd : Reg) (rs : Reg) (s : State) : Out State := load .q rd (.mem rs) s

/-- LD Rd,(Rs++) (R315). -/
def execLdPostInc (rd : Reg) (rs : Reg) (s : State) : Out State := load .q rd (.postInc rs) s

/-- LD Rd,soff14(Rs) (R316). -/
def execLdInd (rd : Reg) (rs : Reg) (off : BitVec 14) (s : State) : Out State := load .q rd (.ind rs off) s

/-- LD Rd,soff6(FP) (R317). -/
def execLdFp (rd : Reg) (off : BitVec 6) (s : State) : Out State := load .q rd (.fp off) s

/-- LD.UB Rd,soff14(PC) (R316). -/
def execLdUBPc (rd : Reg) (off : BitVec 14) (s : State) : Out State := load .ub rd (.pc off) s

/-- LD.UB Rd,addr16 (R314). -/
def execLdUBAddr16 (rd : Reg) (addr : BitVec 16) (s : State) : Out State := load .ub rd (.addr16 addr) s

/-- LD.UB Rd,addr32 (R314). -/
def execLdUBAddr32 (rd : Reg) (addr : BitVec 32) (s : State) : Out State := load .ub rd (.addr32 addr) s

/-- LD.UB Rd,(Rs) (R315). -/
def execLdUBMem (rd : Reg) (rs : Reg) (s : State) : Out State := load .ub rd (.mem rs) s

/-- LD.UB Rd,(Rs++) (R315). -/
def execLdUBPostInc (rd : Reg) (rs : Reg) (s : State) : Out State := load .ub rd (.postInc rs) s

/-- LD.UB Rd,soff14(Rs) (R316). -/
def execLdUBInd (rd : Reg) (rs : Reg) (off : BitVec 14) (s : State) : Out State := load .ub rd (.ind rs off) s

/-- LD.UB Rd,soff6(FP) (R317). -/
def execLdUBFp (rd : Reg) (off : BitVec 6) (s : State) : Out State := load .ub rd (.fp off) s

/-- LD.UW Rd,soff14(PC) (R316). -/
def execLdUWPc (rd : Reg) (off : BitVec 14) (s : State) : Out State := load .uw rd (.pc off) s

/-- LD.UW Rd,addr16 (R314). -/
def execLdUWAddr16 (rd : Reg) (addr : BitVec 16) (s : State) : Out State := load .uw rd (.addr16 addr) s

/-- LD.UW Rd,addr32 (R314). -/
def execLdUWAddr32 (rd : Reg) (addr : BitVec 32) (s : State) : Out State := load .uw rd (.addr32 addr) s

/-- LD.UW Rd,(Rs) (R315). -/
def execLdUWMem (rd : Reg) (rs : Reg) (s : State) : Out State := load .uw rd (.mem rs) s

/-- LD.UW Rd,(Rs++) (R315). -/
def execLdUWPostInc (rd : Reg) (rs : Reg) (s : State) : Out State := load .uw rd (.postInc rs) s

/-- LD.UW Rd,soff14(Rs) (R316). -/
def execLdUWInd (rd : Reg) (rs : Reg) (off : BitVec 14) (s : State) : Out State := load .uw rd (.ind rs off) s

/-- LD.UW Rd,soff6(FP) (R317). -/
def execLdUWFp (rd : Reg) (off : BitVec 6) (s : State) : Out State := load .uw rd (.fp off) s

/-- LD.SB Rd,soff14(PC) (R316). -/
def execLdSBPc (rd : Reg) (off : BitVec 14) (s : State) : Out State := load .sb rd (.pc off) s

/-- LD.SB Rd,addr16 (R314). -/
def execLdSBAddr16 (rd : Reg) (addr : BitVec 16) (s : State) : Out State := load .sb rd (.addr16 addr) s

/-- LD.SB Rd,addr32 (R314). -/
def execLdSBAddr32 (rd : Reg) (addr : BitVec 32) (s : State) : Out State := load .sb rd (.addr32 addr) s

/-- LD.SB Rd,(Rs) (R315). -/
def execLdSBMem (rd : Reg) (rs : Reg) (s : State) : Out State := load .sb rd (.mem rs) s

/-- LD.SB Rd,(Rs++) (R315). -/
def execLdSBPostInc (rd : Reg) (rs : Reg) (s : State) : Out State := load .sb rd (.postInc rs) s

/-- LD.SB Rd,soff14(Rs) (R316). -/
def execLdSBInd (rd : Reg) (rs : Reg) (off : BitVec 14) (s : State) : Out State := load .sb rd (.ind rs off) s

/-- LD.SB Rd,soff6(FP) (R317). -/
def execLdSBFp (rd : Reg) (off : BitVec 6) (s : State) : Out State := load .sb rd (.fp off) s

/-- LD.SW Rd,soff14(PC) (R316). -/
def execLdSWPc (rd : Reg) (off : BitVec 14) (s : State) : Out State := load .sw rd (.pc off) s

/-- LD.SW Rd,addr16 (R314). -/
def execLdSWAddr16 (rd : Reg) (addr : BitVec 16) (s : State) : Out State := load .sw rd (.addr16 addr) s

/-- LD.SW Rd,addr32 (R314). -/
def execLdSWAddr32 (rd : Reg) (addr : BitVec 32) (s : State) : Out State := load .sw rd (.addr32 addr) s

/-- LD.SW Rd,(Rs) (R315). -/
def execLdSWMem (rd : Reg) (rs : Reg) (s : State) : Out State := load .sw rd (.mem rs) s

/-- LD.SW Rd,(Rs++) (R315). -/
def execLdSWPostInc (rd : Reg) (rs : Reg) (s : State) : Out State := load .sw rd (.postInc rs) s

/-- LD.SW Rd,soff14(Rs) (R316). -/
def execLdSWInd (rd : Reg) (rs : Reg) (off : BitVec 14) (s : State) : Out State := load .sw rd (.ind rs off) s

/-- LD.SW Rd,soff6(FP) (R317). -/
def execLdSWFp (rd : Reg) (off : BitVec 6) (s : State) : Out State := load .sw rd (.fp off) s

/-- LD Rd,#simm8 (R311). -/
def execLdSimm8 (rd : Reg) (imm : BitVec 8) (s : State) : Out State := loadValue rd (imm.signExtend 32) s

/-- LD Rd,#simm17 (R312). -/
def execLdSimm17 (rd : Reg) (imm : BitVec 17) (s : State) : Out State := loadValue rd (imm.signExtend 32) s

/-- LD Rd,#imm32 (R312). -/
def execLdImm32 (rd : Reg) (imm : BitVec 32) (s : State) : Out State := loadValue rd imm s

/-- LD Rd,Rs (R313). -/
def execLdReg (rd : Reg) (rs : Reg) (s : State) : Out State := copyReg rd rs s

/-- LD_cc cc,Rd (R338). -/
def execLdCc (cc : CC) (rd : Reg) (s : State) : Out State := loadCondition cc rd s

/-- LDES Rd (R339). -/
def execLdes (rd : Reg) (s : State) : Out State := loadSign rd s

/-- LEA Rd,soff14(PC) (R341). -/
def execLeaPc (rd : Reg) (off : BitVec 14) (s : State) : Out State := loadAddress rd (.pc off) s

/-- LEA Rd,soff14(Rs) (R340). -/
def execLeaInd (rd : Reg) (rs : Reg) (off : BitVec 14) (s : State) : Out State := loadAddress rd (.ind rs off) s

/-- LEA Rd,soff6(FP) (R342). -/
def execLeaFp (rd : Reg) (off : BitVec 6) (s : State) : Out State := loadAddress rd (.fp off) s

/-- EXT.UB Rd,Rs (R345). -/
def execExtUB (rd : Reg) (rs : Reg) (s : State) : Out State := extend .ub rd rs s

/-- EXT.UW Rd,Rs (R345). -/
def execExtUW (rd : Reg) (rs : Reg) (s : State) : Out State := extend .uw rd rs s

/-- EXT.SB Rd,Rs (R345). -/
def execExtSB (rd : Reg) (rs : Reg) (s : State) : Out State := extend .sb rd rs s

/-- EXT.SW Rd,Rs (R345). -/
def execExtSW (rd : Reg) (rs : Reg) (s : State) : Out State := extend .sw rd rs s

end Sys2Proof.Machine
end

