-- ==== Sys2Proof/Machine/Logical.lean ====
section
/-! DEFINITION. The meanings of AND, OR, XOR and COM (R260 to R266), one definition per instruction over the operand forms of R204. -/

namespace Sys2Proof.Machine

/-- AND Rd,#imm32 (R261). -/
def execAndImm32 (rd : Reg) (imm : BitVec 32) (s : State) : Out State := bop .and (.imm32 rd imm) s

/-- AND Rd,#uimm16 (R261). -/
def execAndUimm16 (rd : Reg) (imm : BitVec 16) (s : State) : Out State := bop .and (.uimm16 rd imm) s

/-- AND Rd,Rs (R261). -/
def execAndReg (rd : Reg) (rs : Reg) (s : State) : Out State := bop .and (.reg rd rs) s

/-- AND Rd,addr16 (R261). -/
def execAndAddr16 (rd : Reg) (addr : BitVec 16) (s : State) : Out State := bop .and (.load .q rd (.addr16 addr)) s

/-- AND Rd,addr32 (R261). -/
def execAndAddr32 (rd : Reg) (addr : BitVec 32) (s : State) : Out State := bop .and (.load .q rd (.addr32 addr)) s

/-- AND Rd,soff13(Rs) (R261). -/
def execAndInd (rd : Reg) (rs : Reg) (off : BitVec 13) (s : State) : Out State :=
  bop .and (.load .q rd (.ind rs off)) s

/-- AND.SW Rd,addr16 (R261). -/
def execAndSWAddr16 (rd : Reg) (addr : BitVec 16) (s : State) : Out State := bop .and (.load .sw rd (.addr16 addr)) s

/-- AND.SW Rd,addr32 (R261). -/
def execAndSWAddr32 (rd : Reg) (addr : BitVec 32) (s : State) : Out State := bop .and (.load .sw rd (.addr32 addr)) s

/-- AND.SW Rd,soff13(Rs) (R261). -/
def execAndSWInd (rd : Reg) (rs : Reg) (off : BitVec 13) (s : State) : Out State :=
  bop .and (.load .sw rd (.ind rs off)) s

/-- AND.UW Rd,addr16 (R261). -/
def execAndUWAddr16 (rd : Reg) (addr : BitVec 16) (s : State) : Out State := bop .and (.load .uw rd (.addr16 addr)) s

/-- AND.UW Rd,addr32 (R261). -/
def execAndUWAddr32 (rd : Reg) (addr : BitVec 32) (s : State) : Out State := bop .and (.load .uw rd (.addr32 addr)) s

/-- AND.UW Rd,soff13(Rs) (R261). -/
def execAndUWInd (rd : Reg) (rs : Reg) (off : BitVec 13) (s : State) : Out State :=
  bop .and (.load .uw rd (.ind rs off)) s

/-- AND.SB Rd,addr16 (R261). -/
def execAndSBAddr16 (rd : Reg) (addr : BitVec 16) (s : State) : Out State := bop .and (.load .sb rd (.addr16 addr)) s

/-- AND.SB Rd,addr32 (R261). -/
def execAndSBAddr32 (rd : Reg) (addr : BitVec 32) (s : State) : Out State := bop .and (.load .sb rd (.addr32 addr)) s

/-- AND.SB Rd,soff13(Rs) (R261). -/
def execAndSBInd (rd : Reg) (rs : Reg) (off : BitVec 13) (s : State) : Out State :=
  bop .and (.load .sb rd (.ind rs off)) s

/-- AND.UB Rd,addr16 (R261). -/
def execAndUBAddr16 (rd : Reg) (addr : BitVec 16) (s : State) : Out State := bop .and (.load .ub rd (.addr16 addr)) s

/-- AND.UB Rd,addr32 (R261). -/
def execAndUBAddr32 (rd : Reg) (addr : BitVec 32) (s : State) : Out State := bop .and (.load .ub rd (.addr32 addr)) s

/-- AND.UB Rd,soff13(Rs) (R261). -/
def execAndUBInd (rd : Reg) (rs : Reg) (off : BitVec 13) (s : State) : Out State :=
  bop .and (.load .ub rd (.ind rs off)) s

/-- AND addr16,Rs (R261). -/
def execAndToAddr16 (addr : BitVec 16) (rs : Reg) (s : State) : Out State :=
  bop .and (.store .quad (.addr16 addr) rs) s

/-- AND addr32,Rs (R261). -/
def execAndToAddr32 (addr : BitVec 32) (rs : Reg) (s : State) : Out State :=
  bop .and (.store .quad (.addr32 addr) rs) s

/-- AND soff13(Rd),Rs (R261). -/
def execAndToInd (rd : Reg) (off : BitVec 13) (rs : Reg) (s : State) : Out State :=
  bop .and (.store .quad (.ind rd off) rs) s

/-- AND.W addr16,Rs (R261). -/
def execAndWToAddr16 (addr : BitVec 16) (rs : Reg) (s : State) : Out State :=
  bop .and (.store .word (.addr16 addr) rs) s

/-- AND.W addr32,Rs (R261). -/
def execAndWToAddr32 (addr : BitVec 32) (rs : Reg) (s : State) : Out State :=
  bop .and (.store .word (.addr32 addr) rs) s

/-- AND.W soff13(Rd),Rs (R261). -/
def execAndWToInd (rd : Reg) (off : BitVec 13) (rs : Reg) (s : State) : Out State :=
  bop .and (.store .word (.ind rd off) rs) s

/-- AND.B addr16,Rs (R261). -/
def execAndBToAddr16 (addr : BitVec 16) (rs : Reg) (s : State) : Out State :=
  bop .and (.store .byte (.addr16 addr) rs) s

/-- AND.B addr32,Rs (R261). -/
def execAndBToAddr32 (addr : BitVec 32) (rs : Reg) (s : State) : Out State :=
  bop .and (.store .byte (.addr32 addr) rs) s

/-- AND.B soff13(Rd),Rs (R261). -/
def execAndBToInd (rd : Reg) (off : BitVec 13) (rs : Reg) (s : State) : Out State :=
  bop .and (.store .byte (.ind rd off) rs) s

/-- AND (Rd),#imm32 (R261). -/
def execAndMemImm32 (rd : Reg) (imm : BitVec 32) (s : State) : Out State := bop .and (.memImm32 rd imm) s

/-- AND (Rd),#simm16 (R261). -/
def execAndMemSimm16 (rd : Reg) (imm : BitVec 16) (s : State) : Out State := bop .and (.memSimm16 rd imm) s

/-- AND.W (Rd),#imm16 (R261). -/
def execAndWMemImm16 (rd : Reg) (imm : BitVec 16) (s : State) : Out State := bop .and (.memWImm16 rd imm) s

/-- AND.B (Rd),#imm8 (R261). -/
def execAndBMemImm8 (rd : Reg) (imm : BitVec 8) (s : State) : Out State := bop .and (.memBImm8 rd imm) s

/-- OR Rd,#imm32 (R262). -/
def execOrImm32 (rd : Reg) (imm : BitVec 32) (s : State) : Out State := bop .or (.imm32 rd imm) s

/-- OR Rd,#uimm16 (R262). -/
def execOrUimm16 (rd : Reg) (imm : BitVec 16) (s : State) : Out State := bop .or (.uimm16 rd imm) s

/-- OR Rd,Rs (R262). -/
def execOrReg (rd : Reg) (rs : Reg) (s : State) : Out State := bop .or (.reg rd rs) s

/-- OR Rd,addr16 (R262). -/
def execOrAddr16 (rd : Reg) (addr : BitVec 16) (s : State) : Out State := bop .or (.load .q rd (.addr16 addr)) s

/-- OR Rd,addr32 (R262). -/
def execOrAddr32 (rd : Reg) (addr : BitVec 32) (s : State) : Out State := bop .or (.load .q rd (.addr32 addr)) s

/-- OR Rd,soff13(Rs) (R262). -/
def execOrInd (rd : Reg) (rs : Reg) (off : BitVec 13) (s : State) : Out State := bop .or (.load .q rd (.ind rs off)) s

/-- OR.SW Rd,addr16 (R262). -/
def execOrSWAddr16 (rd : Reg) (addr : BitVec 16) (s : State) : Out State := bop .or (.load .sw rd (.addr16 addr)) s

/-- OR.SW Rd,addr32 (R262). -/
def execOrSWAddr32 (rd : Reg) (addr : BitVec 32) (s : State) : Out State := bop .or (.load .sw rd (.addr32 addr)) s

/-- OR.SW Rd,soff13(Rs) (R262). -/
def execOrSWInd (rd : Reg) (rs : Reg) (off : BitVec 13) (s : State) : Out State :=
  bop .or (.load .sw rd (.ind rs off)) s

/-- OR.UW Rd,addr16 (R262). -/
def execOrUWAddr16 (rd : Reg) (addr : BitVec 16) (s : State) : Out State := bop .or (.load .uw rd (.addr16 addr)) s

/-- OR.UW Rd,addr32 (R262). -/
def execOrUWAddr32 (rd : Reg) (addr : BitVec 32) (s : State) : Out State := bop .or (.load .uw rd (.addr32 addr)) s

/-- OR.UW Rd,soff13(Rs) (R262). -/
def execOrUWInd (rd : Reg) (rs : Reg) (off : BitVec 13) (s : State) : Out State :=
  bop .or (.load .uw rd (.ind rs off)) s

/-- OR.SB Rd,addr16 (R262). -/
def execOrSBAddr16 (rd : Reg) (addr : BitVec 16) (s : State) : Out State := bop .or (.load .sb rd (.addr16 addr)) s

/-- OR.SB Rd,addr32 (R262). -/
def execOrSBAddr32 (rd : Reg) (addr : BitVec 32) (s : State) : Out State := bop .or (.load .sb rd (.addr32 addr)) s

/-- OR.SB Rd,soff13(Rs) (R262). -/
def execOrSBInd (rd : Reg) (rs : Reg) (off : BitVec 13) (s : State) : Out State :=
  bop .or (.load .sb rd (.ind rs off)) s

/-- OR.UB Rd,addr16 (R262). -/
def execOrUBAddr16 (rd : Reg) (addr : BitVec 16) (s : State) : Out State := bop .or (.load .ub rd (.addr16 addr)) s

/-- OR.UB Rd,addr32 (R262). -/
def execOrUBAddr32 (rd : Reg) (addr : BitVec 32) (s : State) : Out State := bop .or (.load .ub rd (.addr32 addr)) s

/-- OR.UB Rd,soff13(Rs) (R262). -/
def execOrUBInd (rd : Reg) (rs : Reg) (off : BitVec 13) (s : State) : Out State :=
  bop .or (.load .ub rd (.ind rs off)) s

/-- OR addr16,Rs (R262). -/
def execOrToAddr16 (addr : BitVec 16) (rs : Reg) (s : State) : Out State := bop .or (.store .quad (.addr16 addr) rs) s

/-- OR addr32,Rs (R262). -/
def execOrToAddr32 (addr : BitVec 32) (rs : Reg) (s : State) : Out State := bop .or (.store .quad (.addr32 addr) rs) s

/-- OR soff13(Rd),Rs (R262). -/
def execOrToInd (rd : Reg) (off : BitVec 13) (rs : Reg) (s : State) : Out State :=
  bop .or (.store .quad (.ind rd off) rs) s

/-- OR.W addr16,Rs (R262). -/
def execOrWToAddr16 (addr : BitVec 16) (rs : Reg) (s : State) : Out State :=
  bop .or (.store .word (.addr16 addr) rs) s

/-- OR.W addr32,Rs (R262). -/
def execOrWToAddr32 (addr : BitVec 32) (rs : Reg) (s : State) : Out State :=
  bop .or (.store .word (.addr32 addr) rs) s

/-- OR.W soff13(Rd),Rs (R262). -/
def execOrWToInd (rd : Reg) (off : BitVec 13) (rs : Reg) (s : State) : Out State :=
  bop .or (.store .word (.ind rd off) rs) s

/-- OR.B addr16,Rs (R262). -/
def execOrBToAddr16 (addr : BitVec 16) (rs : Reg) (s : State) : Out State :=
  bop .or (.store .byte (.addr16 addr) rs) s

/-- OR.B addr32,Rs (R262). -/
def execOrBToAddr32 (addr : BitVec 32) (rs : Reg) (s : State) : Out State :=
  bop .or (.store .byte (.addr32 addr) rs) s

/-- OR.B soff13(Rd),Rs (R262). -/
def execOrBToInd (rd : Reg) (off : BitVec 13) (rs : Reg) (s : State) : Out State :=
  bop .or (.store .byte (.ind rd off) rs) s

/-- OR (Rd),#imm32 (R262). -/
def execOrMemImm32 (rd : Reg) (imm : BitVec 32) (s : State) : Out State := bop .or (.memImm32 rd imm) s

/-- OR (Rd),#simm16 (R262). -/
def execOrMemSimm16 (rd : Reg) (imm : BitVec 16) (s : State) : Out State := bop .or (.memSimm16 rd imm) s

/-- OR.W (Rd),#imm16 (R262). -/
def execOrWMemImm16 (rd : Reg) (imm : BitVec 16) (s : State) : Out State := bop .or (.memWImm16 rd imm) s

/-- OR.B (Rd),#imm8 (R262). -/
def execOrBMemImm8 (rd : Reg) (imm : BitVec 8) (s : State) : Out State := bop .or (.memBImm8 rd imm) s

/-- XOR Rd,#imm32 (R263). -/
def execXorImm32 (rd : Reg) (imm : BitVec 32) (s : State) : Out State := bop .xor (.imm32 rd imm) s

/-- XOR Rd,#uimm16 (R263). -/
def execXorUimm16 (rd : Reg) (imm : BitVec 16) (s : State) : Out State := bop .xor (.uimm16 rd imm) s

/-- XOR Rd,Rs (R263). -/
def execXorReg (rd : Reg) (rs : Reg) (s : State) : Out State := bop .xor (.reg rd rs) s

/-- XOR Rd,addr16 (R263). -/
def execXorAddr16 (rd : Reg) (addr : BitVec 16) (s : State) : Out State := bop .xor (.load .q rd (.addr16 addr)) s

/-- XOR Rd,addr32 (R263). -/
def execXorAddr32 (rd : Reg) (addr : BitVec 32) (s : State) : Out State := bop .xor (.load .q rd (.addr32 addr)) s

/-- XOR Rd,soff13(Rs) (R263). -/
def execXorInd (rd : Reg) (rs : Reg) (off : BitVec 13) (s : State) : Out State :=
  bop .xor (.load .q rd (.ind rs off)) s

/-- XOR.SW Rd,addr16 (R263). -/
def execXorSWAddr16 (rd : Reg) (addr : BitVec 16) (s : State) : Out State := bop .xor (.load .sw rd (.addr16 addr)) s

/-- XOR.SW Rd,addr32 (R263). -/
def execXorSWAddr32 (rd : Reg) (addr : BitVec 32) (s : State) : Out State := bop .xor (.load .sw rd (.addr32 addr)) s

/-- XOR.SW Rd,soff13(Rs) (R263). -/
def execXorSWInd (rd : Reg) (rs : Reg) (off : BitVec 13) (s : State) : Out State :=
  bop .xor (.load .sw rd (.ind rs off)) s

/-- XOR.UW Rd,addr16 (R263). -/
def execXorUWAddr16 (rd : Reg) (addr : BitVec 16) (s : State) : Out State := bop .xor (.load .uw rd (.addr16 addr)) s

/-- XOR.UW Rd,addr32 (R263). -/
def execXorUWAddr32 (rd : Reg) (addr : BitVec 32) (s : State) : Out State := bop .xor (.load .uw rd (.addr32 addr)) s

/-- XOR.UW Rd,soff13(Rs) (R263). -/
def execXorUWInd (rd : Reg) (rs : Reg) (off : BitVec 13) (s : State) : Out State :=
  bop .xor (.load .uw rd (.ind rs off)) s

/-- XOR.SB Rd,addr16 (R263). -/
def execXorSBAddr16 (rd : Reg) (addr : BitVec 16) (s : State) : Out State := bop .xor (.load .sb rd (.addr16 addr)) s

/-- XOR.SB Rd,addr32 (R263). -/
def execXorSBAddr32 (rd : Reg) (addr : BitVec 32) (s : State) : Out State := bop .xor (.load .sb rd (.addr32 addr)) s

/-- XOR.SB Rd,soff13(Rs) (R263). -/
def execXorSBInd (rd : Reg) (rs : Reg) (off : BitVec 13) (s : State) : Out State :=
  bop .xor (.load .sb rd (.ind rs off)) s

/-- XOR.UB Rd,addr16 (R263). -/
def execXorUBAddr16 (rd : Reg) (addr : BitVec 16) (s : State) : Out State := bop .xor (.load .ub rd (.addr16 addr)) s

/-- XOR.UB Rd,addr32 (R263). -/
def execXorUBAddr32 (rd : Reg) (addr : BitVec 32) (s : State) : Out State := bop .xor (.load .ub rd (.addr32 addr)) s

/-- XOR.UB Rd,soff13(Rs) (R263). -/
def execXorUBInd (rd : Reg) (rs : Reg) (off : BitVec 13) (s : State) : Out State :=
  bop .xor (.load .ub rd (.ind rs off)) s

/-- XOR addr16,Rs (R263). -/
def execXorToAddr16 (addr : BitVec 16) (rs : Reg) (s : State) : Out State :=
  bop .xor (.store .quad (.addr16 addr) rs) s

/-- XOR addr32,Rs (R263). -/
def execXorToAddr32 (addr : BitVec 32) (rs : Reg) (s : State) : Out State :=
  bop .xor (.store .quad (.addr32 addr) rs) s

/-- XOR soff13(Rd),Rs (R263). -/
def execXorToInd (rd : Reg) (off : BitVec 13) (rs : Reg) (s : State) : Out State :=
  bop .xor (.store .quad (.ind rd off) rs) s

/-- XOR.W addr16,Rs (R263). -/
def execXorWToAddr16 (addr : BitVec 16) (rs : Reg) (s : State) : Out State :=
  bop .xor (.store .word (.addr16 addr) rs) s

/-- XOR.W addr32,Rs (R263). -/
def execXorWToAddr32 (addr : BitVec 32) (rs : Reg) (s : State) : Out State :=
  bop .xor (.store .word (.addr32 addr) rs) s

/-- XOR.W soff13(Rd),Rs (R263). -/
def execXorWToInd (rd : Reg) (off : BitVec 13) (rs : Reg) (s : State) : Out State :=
  bop .xor (.store .word (.ind rd off) rs) s

/-- XOR.B addr16,Rs (R263). -/
def execXorBToAddr16 (addr : BitVec 16) (rs : Reg) (s : State) : Out State :=
  bop .xor (.store .byte (.addr16 addr) rs) s

/-- XOR.B addr32,Rs (R263). -/
def execXorBToAddr32 (addr : BitVec 32) (rs : Reg) (s : State) : Out State :=
  bop .xor (.store .byte (.addr32 addr) rs) s

/-- XOR.B soff13(Rd),Rs (R263). -/
def execXorBToInd (rd : Reg) (off : BitVec 13) (rs : Reg) (s : State) : Out State :=
  bop .xor (.store .byte (.ind rd off) rs) s

/-- XOR (Rd),#imm32 (R263). -/
def execXorMemImm32 (rd : Reg) (imm : BitVec 32) (s : State) : Out State := bop .xor (.memImm32 rd imm) s

/-- XOR (Rd),#simm16 (R263). -/
def execXorMemSimm16 (rd : Reg) (imm : BitVec 16) (s : State) : Out State := bop .xor (.memSimm16 rd imm) s

/-- XOR.W (Rd),#imm16 (R263). -/
def execXorWMemImm16 (rd : Reg) (imm : BitVec 16) (s : State) : Out State := bop .xor (.memWImm16 rd imm) s

/-- XOR.B (Rd),#imm8 (R263). -/
def execXorBMemImm8 (rd : Reg) (imm : BitVec 8) (s : State) : Out State := bop .xor (.memBImm8 rd imm) s

/-- COM Rd (R266). -/
def execCom (rd : Reg) (s : State) : Out State := complement rd s

end Sys2Proof.Machine
end

