-- ==== Sys2Proof/Machine/MulDiv.lean ====
section
/-! DEFINITION. The meanings of the multiplies and divides (R230 to R236); behind the Extend prefix UDIV is UDIV64. -/

namespace Sys2Proof.Machine

/-- UDIV Rd,Rs (R233, R234 with the latch). -/
def execUdiv (rd : Reg) (rs : Reg) (s : State) : Out State := divideUnsigned rd rs s

/-- SDIV Rd,Rs (R235). -/
def execSdiv (rd : Reg) (rs : Reg) (s : State) : Out State := divideSigned rd rs s

/-- UMUL Rd,Rs (R232). -/
def execUmul (rd : Reg) (rs : Reg) (s : State) : Out State := multiplyWide false rd rs s

/-- SMUL Rd,Rs (R231). -/
def execSmul (rd : Reg) (rs : Reg) (s : State) : Out State := multiplyWide true rd rs s

/-- MUL Rd,Rs (R230). -/
def execMul (rd : Reg) (rs : Reg) (s : State) : Out State := multiply rd rs s

end Sys2Proof.Machine
end

