-- ==== Sys2Proof/Machine/ProgramControl.lean ====
section
/-! DEFINITION. The meanings of the jumps, calls, returns, DJNZ, TRAP and ILL (R420 to R445). -/

namespace Sys2Proof.Machine

/-- JP rel12 (R422). -/
def execJpRel12 (rel : BitVec 12) (s : State) : Out State := jumpRelative rel s

/-- JP rel24 (R422). -/
def execJpRel24 (rel : BitVec 24) (s : State) : Out State := jumpRelative rel s

/-- JP (Rs) (R421). -/
def execJpInd (rs : Reg) (s : State) : Out State := jumpRegister rs s

/-- JP_cc cc,rel8 (R424). -/
def execJpCcRel8 (cc : CC) (rel : BitVec 8) (s : State) : Out State := jumpConditional cc rel s

/-- JP_cc cc,rel16 (R424). -/
def execJpCcRel16 (cc : CC) (rel : BitVec 16) (s : State) : Out State := jumpConditional cc rel s

/-- JPA imm32 (R423). -/
def execJpa (imm : BitVec 32) (s : State) : Out State := jumpAbsolute imm s

/-- CALL rel12 (R429). -/
def execCallRel12 (rel : BitVec 12) (s : State) : Out State := callRelative rel s

/-- CALL rel24 (R429). -/
def execCallRel24 (rel : BitVec 24) (s : State) : Out State := callRelative rel s

/-- CALL (Rs) (R430). -/
def execCallInd (rs : Reg) (s : State) : Out State := callRegister rs s

/-- CALLA imm32 (R431). -/
def execCalla (imm : BitVec 32) (s : State) : Out State := callAbsolute imm s

/-- DJNZ Rd,urel4 (R438). -/
def execDjnz (rd : Reg) (rel : BitVec 4) (s : State) : Out State := decrementJump rd rel s

/-- TRAP #vector8 (R440). -/
def execTrap (vec : BitVec 8) (s : State) : Out State := softwareTrap vec s

/-- ILL (R445). -/
def execIll (s : State) : Out State := illegalWord s

/-- RET (R435). -/
def execRet (s : State) : Out State := returnFromCall s

/-- IRET (R436). -/
def execIret (s : State) : Out State := returnFromInterrupt s

end Sys2Proof.Machine
end

