-- ==== Sys2Proof/Machine/Shift.lean ====
section
/-! DEFINITION. The meanings of the shifts and rotates (R290 to R299); behind the Extend prefix SRA, SRL and SLL by a register are SRAX,
SRLX and SLLX. -/

namespace Sys2Proof.Machine

/-- SRA Rd,Rs (R294, R298 with the latch). -/
def execSraReg (rd : Reg) (rs : Reg) (s : State) : Out State := shiftReg .sra rd rs s

/-- SRL Rd,Rs (R295, R299 with the latch). -/
def execSrlReg (rd : Reg) (rs : Reg) (s : State) : Out State := shiftReg .srl rd rs s

/-- SLL Rd,Rs (R293, R297 with the latch). -/
def execSllReg (rd : Reg) (rs : Reg) (s : State) : Out State := shiftReg .sll rd rs s

/-- RL Rd,Rs (R292). -/
def execRlReg (rd : Reg) (rs : Reg) (s : State) : Out State := shiftReg .rl rd rs s

/-- SRA Rd,#uimm5 (R294). -/
def execSraImm (rd : Reg) (imm : BitVec 5) (s : State) : Out State := shiftImm .sra rd imm s

/-- SRL Rd,#uimm5 (R295). -/
def execSrlImm (rd : Reg) (imm : BitVec 5) (s : State) : Out State := shiftImm .srl rd imm s

/-- SLL Rd,#uimm5 (R293). -/
def execSllImm (rd : Reg) (imm : BitVec 5) (s : State) : Out State := shiftImm .sll rd imm s

/-- RL Rd,#uimm5 (R292). -/
def execRlImm (rd : Reg) (imm : BitVec 5) (s : State) : Out State := shiftImm .rl rd imm s

end Sys2Proof.Machine
end

