-- ==== Sys2Proof/Machine/Stack.lean ====
section
/-! DEFINITION. The meanings of PUSH, POP, PUSHM, POPM, PUSHF, POPF, LINK and UNLINK (R360 to R381). -/

namespace Sys2Proof.Machine

/-- PUSH.B #imm8 (R361). -/
def execPushBImm8 (imm : BitVec 8) (s : State) : Out State := pushValue .byte imm s

/-- PUSH.W #simm8 (R361). -/
def execPushWSimm8 (imm : BitVec 8) (s : State) : Out State := pushValue .word (imm.signExtend 16) s

/-- PUSH #simm8 (R361). -/
def execPushSimm8 (imm : BitVec 8) (s : State) : Out State := pushValue .quad (imm.signExtend 32) s

/-- POP Rd (R364). -/
def execPop (rd : Reg) (s : State) : Out State := popValue .q rd s

/-- POP.UB Rd (R364). -/
def execPopUB (rd : Reg) (s : State) : Out State := popValue .ub rd s

/-- POP.UW Rd (R364). -/
def execPopUW (rd : Reg) (s : State) : Out State := popValue .uw rd s

/-- POP.SB Rd (R364). -/
def execPopSB (rd : Reg) (s : State) : Out State := popValue .sb rd s

/-- POP.SW Rd (R364). -/
def execPopSW (rd : Reg) (s : State) : Out State := popValue .sw rd s

/-- PUSHMLO mask (R372). -/
def execPushmLo (mask : BitVec 8) (s : State) : Out State := pushMultiple (pushMask 7 mask) s

/-- PUSHMHI mask (R373). -/
def execPushmHi (mask : BitVec 8) (s : State) : Out State := pushMultiple (pushMask 15 mask) s

/-- POPMLO mask (R374). -/
def execPopmLo (mask : BitVec 8) (s : State) : Out State := popMultiple (popMask 0 mask) s

/-- POPMHI mask (R375). -/
def execPopmHi (mask : BitVec 8) (s : State) : Out State := popMultiple (popMask 8 mask) s

/-- PUSHF (R367). -/
def execPushf (s : State) : Out State := pushFlags s

/-- POPF (R368). -/
def execPopf (s : State) : Out State := popFlags s

/-- LINK #uimm8 (R380). -/
def execLink (imm : BitVec 8) (s : State) : Out State := linkFrame imm s

/-- UNLINK (R381). -/
def execUnlink (s : State) : Out State := unlinkFrame s

end Sys2Proof.Machine
end

