-- ==== Sys2Proof/Machine/Store.lean ====
section
/-! DEFINITION. The meanings of LD with a memory destination (R321 to R327). -/

namespace Sys2Proof.Machine

/-- LD addr16,Rs (R321). -/
def execLdToAddr16 (addr : BitVec 16) (rs : Reg) (s : State) : Out State := store .quad (.addr16 addr) rs s

/-- LD addr32,Rs (R321). -/
def execLdToAddr32 (addr : BitVec 32) (rs : Reg) (s : State) : Out State := store .quad (.addr32 addr) rs s

/-- LD (Rd),Rs (R322). -/
def execLdToMem (rd : Reg) (rs : Reg) (s : State) : Out State := store .quad (.mem rd) rs s

/-- LD (--Rd),Rs (R323). -/
def execLdToPre (rd : Reg) (rs : Reg) (s : State) : Out State := store .quad (.preDec rd) rs s

/-- LD (Rd++),Rs (R324). -/
def execLdToPost (rd : Reg) (rs : Reg) (s : State) : Out State := store .quad (.postInc rd) rs s

/-- LD soff14(Rd),Rs (R322). -/
def execLdToInd (rd : Reg) (off : BitVec 14) (rs : Reg) (s : State) : Out State := store .quad (.ind rd off) rs s

/-- LD soff6(FP),Rs (R322). -/
def execLdToFp (off : BitVec 6) (rs : Reg) (s : State) : Out State := store .quad (.fp off) rs s

/-- LD.W addr16,Rs (R321). -/
def execLdWToAddr16 (addr : BitVec 16) (rs : Reg) (s : State) : Out State := store .word (.addr16 addr) rs s

/-- LD.W addr32,Rs (R321). -/
def execLdWToAddr32 (addr : BitVec 32) (rs : Reg) (s : State) : Out State := store .word (.addr32 addr) rs s

/-- LD.W (Rd),Rs (R322). -/
def execLdWToMem (rd : Reg) (rs : Reg) (s : State) : Out State := store .word (.mem rd) rs s

/-- LD.W (--Rd),Rs (R323). -/
def execLdWToPre (rd : Reg) (rs : Reg) (s : State) : Out State := store .word (.preDec rd) rs s

/-- LD.W (Rd++),Rs (R324). -/
def execLdWToPost (rd : Reg) (rs : Reg) (s : State) : Out State := store .word (.postInc rd) rs s

/-- LD.W soff14(Rd),Rs (R322). -/
def execLdWToInd (rd : Reg) (off : BitVec 14) (rs : Reg) (s : State) : Out State := store .word (.ind rd off) rs s

/-- LD.W soff6(FP),Rs (R322). -/
def execLdWToFp (off : BitVec 6) (rs : Reg) (s : State) : Out State := store .word (.fp off) rs s

/-- LD.B addr16,Rs (R321). -/
def execLdBToAddr16 (addr : BitVec 16) (rs : Reg) (s : State) : Out State := store .byte (.addr16 addr) rs s

/-- LD.B addr32,Rs (R321). -/
def execLdBToAddr32 (addr : BitVec 32) (rs : Reg) (s : State) : Out State := store .byte (.addr32 addr) rs s

/-- LD.B (Rd),Rs (R322). -/
def execLdBToMem (rd : Reg) (rs : Reg) (s : State) : Out State := store .byte (.mem rd) rs s

/-- LD.B (--Rd),Rs (R323). -/
def execLdBToPre (rd : Reg) (rs : Reg) (s : State) : Out State := store .byte (.preDec rd) rs s

/-- LD.B (Rd++),Rs (R324). -/
def execLdBToPost (rd : Reg) (rs : Reg) (s : State) : Out State := store .byte (.postInc rd) rs s

/-- LD.B soff14(Rd),Rs (R322). -/
def execLdBToInd (rd : Reg) (off : BitVec 14) (rs : Reg) (s : State) : Out State := store .byte (.ind rd off) rs s

/-- LD.B soff6(FP),Rs (R322). -/
def execLdBToFp (off : BitVec 6) (rs : Reg) (s : State) : Out State := store .byte (.fp off) rs s

/-- LD (Rd),#imm32 (R325). -/
def execLdMemImm32 (rd : Reg) (imm : BitVec 32) (s : State) : Out State := storeImm .mem rd (.imm32 imm) s

/-- LD (--Rd),#imm32 (R326). -/
def execLdPreImm32 (rd : Reg) (imm : BitVec 32) (s : State) : Out State := storeImm .preDec rd (.imm32 imm) s

/-- LD (Rd++),#imm32 (R327). -/
def execLdPostImm32 (rd : Reg) (imm : BitVec 32) (s : State) : Out State := storeImm .postInc rd (.imm32 imm) s

/-- LD (Rd),#simm16 (R325). -/
def execLdMemSimm16 (rd : Reg) (imm : BitVec 16) (s : State) : Out State := storeImm .mem rd (.simm16 imm) s

/-- LD (--Rd),#simm16 (R326). -/
def execLdPreSimm16 (rd : Reg) (imm : BitVec 16) (s : State) : Out State := storeImm .preDec rd (.simm16 imm) s

/-- LD (Rd++),#simm16 (R327). -/
def execLdPostSimm16 (rd : Reg) (imm : BitVec 16) (s : State) : Out State := storeImm .postInc rd (.simm16 imm) s

/-- LD.W (Rd),#imm16 (R325). -/
def execLdWMemImm16 (rd : Reg) (imm : BitVec 16) (s : State) : Out State := storeImm .mem rd (.wImm16 imm) s

/-- LD.W (--Rd),#imm16 (R326). -/
def execLdWPreImm16 (rd : Reg) (imm : BitVec 16) (s : State) : Out State := storeImm .preDec rd (.wImm16 imm) s

/-- LD.W (Rd++),#imm16 (R327). -/
def execLdWPostImm16 (rd : Reg) (imm : BitVec 16) (s : State) : Out State := storeImm .postInc rd (.wImm16 imm) s

/-- LD.B (Rd),#imm8 (R325). -/
def execLdBMemImm8 (rd : Reg) (imm : BitVec 8) (s : State) : Out State := storeImm .mem rd (.bImm8 imm) s

/-- LD.B (--Rd),#imm8 (R326). -/
def execLdBPreImm8 (rd : Reg) (imm : BitVec 8) (s : State) : Out State := storeImm .preDec rd (.bImm8 imm) s

/-- LD.B (Rd++),#imm8 (R327). -/
def execLdBPostImm8 (rd : Reg) (imm : BitVec 8) (s : State) : Out State := storeImm .postInc rd (.bImm8 imm) s

end Sys2Proof.Machine
end

