-- ==== Sys2Proof/Machine/Unary.lean ====
section
/-! DEFINITION. The meanings of CLR, CPZ, INC and DEC of memory (R210, R214 to R217, R350), one definition per instruction; behind the
Extend prefix CPZ is CPCZ (R215). -/

namespace Sys2Proof.Machine

/-- CLR addr16 (R350). -/
def execClrAddr16 (addr : BitVec 16) (s : State) : Out State := uop .clr .quad (.addr16 addr) s

/-- CLR addr32 (R350). -/
def execClrAddr32 (addr : BitVec 32) (s : State) : Out State := uop .clr .quad (.addr32 addr) s

/-- CLR (Rd) (R350). -/
def execClrMem (rd : Reg) (s : State) : Out State := uop .clr .quad (.mem rd) s

/-- CLR soff14(Rd) (R350). -/
def execClrInd (rd : Reg) (off : BitVec 14) (s : State) : Out State := uop .clr .quad (.ind rd off) s

/-- CLR.W addr16 (R350). -/
def execClrWAddr16 (addr : BitVec 16) (s : State) : Out State := uop .clr .word (.addr16 addr) s

/-- CLR.W addr32 (R350). -/
def execClrWAddr32 (addr : BitVec 32) (s : State) : Out State := uop .clr .word (.addr32 addr) s

/-- CLR.W (Rd) (R350). -/
def execClrWMem (rd : Reg) (s : State) : Out State := uop .clr .word (.mem rd) s

/-- CLR.W soff14(Rd) (R350). -/
def execClrWInd (rd : Reg) (off : BitVec 14) (s : State) : Out State := uop .clr .word (.ind rd off) s

/-- CLR.B addr16 (R350). -/
def execClrBAddr16 (addr : BitVec 16) (s : State) : Out State := uop .clr .byte (.addr16 addr) s

/-- CLR.B addr32 (R350). -/
def execClrBAddr32 (addr : BitVec 32) (s : State) : Out State := uop .clr .byte (.addr32 addr) s

/-- CLR.B (Rd) (R350). -/
def execClrBMem (rd : Reg) (s : State) : Out State := uop .clr .byte (.mem rd) s

/-- CLR.B soff14(Rd) (R350). -/
def execClrBInd (rd : Reg) (off : BitVec 14) (s : State) : Out State := uop .clr .byte (.ind rd off) s

/-- CPZ addr16 (R214, R215 with the latch). -/
def execCpzAddr16 (addr : BitVec 16) (s : State) : Out State := uop .cpz .quad (.addr16 addr) s

/-- CPZ addr32 (R214, R215 with the latch). -/
def execCpzAddr32 (addr : BitVec 32) (s : State) : Out State := uop .cpz .quad (.addr32 addr) s

/-- CPZ (Rd) (R214, R215 with the latch). -/
def execCpzMem (rd : Reg) (s : State) : Out State := uop .cpz .quad (.mem rd) s

/-- CPZ soff14(Rd) (R214, R215 with the latch). -/
def execCpzInd (rd : Reg) (off : BitVec 14) (s : State) : Out State := uop .cpz .quad (.ind rd off) s

/-- CPZ.W addr16 (R214, R215 with the latch). -/
def execCpzWAddr16 (addr : BitVec 16) (s : State) : Out State := uop .cpz .word (.addr16 addr) s

/-- CPZ.W addr32 (R214, R215 with the latch). -/
def execCpzWAddr32 (addr : BitVec 32) (s : State) : Out State := uop .cpz .word (.addr32 addr) s

/-- CPZ.W (Rd) (R214, R215 with the latch). -/
def execCpzWMem (rd : Reg) (s : State) : Out State := uop .cpz .word (.mem rd) s

/-- CPZ.W soff14(Rd) (R214, R215 with the latch). -/
def execCpzWInd (rd : Reg) (off : BitVec 14) (s : State) : Out State := uop .cpz .word (.ind rd off) s

/-- CPZ.B addr16 (R214, R215 with the latch). -/
def execCpzBAddr16 (addr : BitVec 16) (s : State) : Out State := uop .cpz .byte (.addr16 addr) s

/-- CPZ.B addr32 (R214, R215 with the latch). -/
def execCpzBAddr32 (addr : BitVec 32) (s : State) : Out State := uop .cpz .byte (.addr32 addr) s

/-- CPZ.B (Rd) (R214, R215 with the latch). -/
def execCpzBMem (rd : Reg) (s : State) : Out State := uop .cpz .byte (.mem rd) s

/-- CPZ.B soff14(Rd) (R214, R215 with the latch). -/
def execCpzBInd (rd : Reg) (off : BitVec 14) (s : State) : Out State := uop .cpz .byte (.ind rd off) s

/-- INC addr16 (R216). -/
def execIncAddr16 (addr : BitVec 16) (s : State) : Out State := uop .inc .quad (.addr16 addr) s

/-- INC addr32 (R216). -/
def execIncAddr32 (addr : BitVec 32) (s : State) : Out State := uop .inc .quad (.addr32 addr) s

/-- INC (Rd) (R216). -/
def execIncMem (rd : Reg) (s : State) : Out State := uop .inc .quad (.mem rd) s

/-- INC soff14(Rd) (R216). -/
def execIncInd (rd : Reg) (off : BitVec 14) (s : State) : Out State := uop .inc .quad (.ind rd off) s

/-- INC.W addr16 (R216). -/
def execIncWAddr16 (addr : BitVec 16) (s : State) : Out State := uop .inc .word (.addr16 addr) s

/-- INC.W addr32 (R216). -/
def execIncWAddr32 (addr : BitVec 32) (s : State) : Out State := uop .inc .word (.addr32 addr) s

/-- INC.W (Rd) (R216). -/
def execIncWMem (rd : Reg) (s : State) : Out State := uop .inc .word (.mem rd) s

/-- INC.W soff14(Rd) (R216). -/
def execIncWInd (rd : Reg) (off : BitVec 14) (s : State) : Out State := uop .inc .word (.ind rd off) s

/-- INC.B addr16 (R216). -/
def execIncBAddr16 (addr : BitVec 16) (s : State) : Out State := uop .inc .byte (.addr16 addr) s

/-- INC.B addr32 (R216). -/
def execIncBAddr32 (addr : BitVec 32) (s : State) : Out State := uop .inc .byte (.addr32 addr) s

/-- INC.B (Rd) (R216). -/
def execIncBMem (rd : Reg) (s : State) : Out State := uop .inc .byte (.mem rd) s

/-- INC.B soff14(Rd) (R216). -/
def execIncBInd (rd : Reg) (off : BitVec 14) (s : State) : Out State := uop .inc .byte (.ind rd off) s

/-- DEC addr16 (R217). -/
def execDecAddr16 (addr : BitVec 16) (s : State) : Out State := uop .dec .quad (.addr16 addr) s

/-- DEC addr32 (R217). -/
def execDecAddr32 (addr : BitVec 32) (s : State) : Out State := uop .dec .quad (.addr32 addr) s

/-- DEC (Rd) (R217). -/
def execDecMem (rd : Reg) (s : State) : Out State := uop .dec .quad (.mem rd) s

/-- DEC soff14(Rd) (R217). -/
def execDecInd (rd : Reg) (off : BitVec 14) (s : State) : Out State := uop .dec .quad (.ind rd off) s

/-- DEC.W addr16 (R217). -/
def execDecWAddr16 (addr : BitVec 16) (s : State) : Out State := uop .dec .word (.addr16 addr) s

/-- DEC.W addr32 (R217). -/
def execDecWAddr32 (addr : BitVec 32) (s : State) : Out State := uop .dec .word (.addr32 addr) s

/-- DEC.W (Rd) (R217). -/
def execDecWMem (rd : Reg) (s : State) : Out State := uop .dec .word (.mem rd) s

/-- DEC.W soff14(Rd) (R217). -/
def execDecWInd (rd : Reg) (off : BitVec 14) (s : State) : Out State := uop .dec .word (.ind rd off) s

/-- DEC.B addr16 (R217). -/
def execDecBAddr16 (addr : BitVec 16) (s : State) : Out State := uop .dec .byte (.addr16 addr) s

/-- DEC.B addr32 (R217). -/
def execDecBAddr32 (addr : BitVec 32) (s : State) : Out State := uop .dec .byte (.addr32 addr) s

/-- DEC.B (Rd) (R217). -/
def execDecBMem (rd : Reg) (s : State) : Out State := uop .dec .byte (.mem rd) s

/-- DEC.B soff14(Rd) (R217). -/
def execDecBInd (rd : Reg) (off : BitVec 14) (s : State) : Out State := uop .dec .byte (.ind rd off) s

end Sys2Proof.Machine
end

