-- ==== Sys2Proof/Machine/Dispatch.lean ====
section
/-! DEFINITION. The meaning of every instruction: one arm per constructor of Instr. -/

namespace Sys2Proof.Machine

def exec (i : Instr) (s : State) : Host.Outcome State Fault Refusal :=
  match i with
  | .addImm32 rd imm => Sys2Proof.Machine.execAddImm32 rd imm s
  | .addUimm16 rd imm => Sys2Proof.Machine.execAddUimm16 rd imm s
  | .addReg rd rs => Sys2Proof.Machine.execAddReg rd rs s
  | .addAddr16 rd addr => Sys2Proof.Machine.execAddAddr16 rd addr s
  | .addAddr32 rd addr => Sys2Proof.Machine.execAddAddr32 rd addr s
  | .addInd rd rs off => Sys2Proof.Machine.execAddInd rd rs off s
  | .addSWAddr16 rd addr => Sys2Proof.Machine.execAddSWAddr16 rd addr s
  | .addSWAddr32 rd addr => Sys2Proof.Machine.execAddSWAddr32 rd addr s
  | .addSWInd rd rs off => Sys2Proof.Machine.execAddSWInd rd rs off s
  | .addUWAddr16 rd addr => Sys2Proof.Machine.execAddUWAddr16 rd addr s
  | .addUWAddr32 rd addr => Sys2Proof.Machine.execAddUWAddr32 rd addr s
  | .addUWInd rd rs off => Sys2Proof.Machine.execAddUWInd rd rs off s
  | .addSBAddr16 rd addr => Sys2Proof.Machine.execAddSBAddr16 rd addr s
  | .addSBAddr32 rd addr => Sys2Proof.Machine.execAddSBAddr32 rd addr s
  | .addSBInd rd rs off => Sys2Proof.Machine.execAddSBInd rd rs off s
  | .addUBAddr16 rd addr => Sys2Proof.Machine.execAddUBAddr16 rd addr s
  | .addUBAddr32 rd addr => Sys2Proof.Machine.execAddUBAddr32 rd addr s
  | .addUBInd rd rs off => Sys2Proof.Machine.execAddUBInd rd rs off s
  | .addToAddr16 addr rs => Sys2Proof.Machine.execAddToAddr16 addr rs s
  | .addToAddr32 addr rs => Sys2Proof.Machine.execAddToAddr32 addr rs s
  | .addToInd rd off rs => Sys2Proof.Machine.execAddToInd rd off rs s
  | .addWToAddr16 addr rs => Sys2Proof.Machine.execAddWToAddr16 addr rs s
  | .addWToAddr32 addr rs => Sys2Proof.Machine.execAddWToAddr32 addr rs s
  | .addWToInd rd off rs => Sys2Proof.Machine.execAddWToInd rd off rs s
  | .addBToAddr16 addr rs => Sys2Proof.Machine.execAddBToAddr16 addr rs s
  | .addBToAddr32 addr rs => Sys2Proof.Machine.execAddBToAddr32 addr rs s
  | .addBToInd rd off rs => Sys2Proof.Machine.execAddBToInd rd off rs s
  | .addMemImm32 rd imm => Sys2Proof.Machine.execAddMemImm32 rd imm s
  | .addMemSimm16 rd imm => Sys2Proof.Machine.execAddMemSimm16 rd imm s
  | .addWMemImm16 rd imm => Sys2Proof.Machine.execAddWMemImm16 rd imm s
  | .addBMemImm8 rd imm => Sys2Proof.Machine.execAddBMemImm8 rd imm s
  | .subImm32 rd imm => Sys2Proof.Machine.execSubImm32 rd imm s
  | .subUimm16 rd imm => Sys2Proof.Machine.execSubUimm16 rd imm s
  | .subReg rd rs => Sys2Proof.Machine.execSubReg rd rs s
  | .subAddr16 rd addr => Sys2Proof.Machine.execSubAddr16 rd addr s
  | .subAddr32 rd addr => Sys2Proof.Machine.execSubAddr32 rd addr s
  | .subInd rd rs off => Sys2Proof.Machine.execSubInd rd rs off s
  | .subSWAddr16 rd addr => Sys2Proof.Machine.execSubSWAddr16 rd addr s
  | .subSWAddr32 rd addr => Sys2Proof.Machine.execSubSWAddr32 rd addr s
  | .subSWInd rd rs off => Sys2Proof.Machine.execSubSWInd rd rs off s
  | .subUWAddr16 rd addr => Sys2Proof.Machine.execSubUWAddr16 rd addr s
  | .subUWAddr32 rd addr => Sys2Proof.Machine.execSubUWAddr32 rd addr s
  | .subUWInd rd rs off => Sys2Proof.Machine.execSubUWInd rd rs off s
  | .subSBAddr16 rd addr => Sys2Proof.Machine.execSubSBAddr16 rd addr s
  | .subSBAddr32 rd addr => Sys2Proof.Machine.execSubSBAddr32 rd addr s
  | .subSBInd rd rs off => Sys2Proof.Machine.execSubSBInd rd rs off s
  | .subUBAddr16 rd addr => Sys2Proof.Machine.execSubUBAddr16 rd addr s
  | .subUBAddr32 rd addr => Sys2Proof.Machine.execSubUBAddr32 rd addr s
  | .subUBInd rd rs off => Sys2Proof.Machine.execSubUBInd rd rs off s
  | .subToAddr16 addr rs => Sys2Proof.Machine.execSubToAddr16 addr rs s
  | .subToAddr32 addr rs => Sys2Proof.Machine.execSubToAddr32 addr rs s
  | .subToInd rd off rs => Sys2Proof.Machine.execSubToInd rd off rs s
  | .subWToAddr16 addr rs => Sys2Proof.Machine.execSubWToAddr16 addr rs s
  | .subWToAddr32 addr rs => Sys2Proof.Machine.execSubWToAddr32 addr rs s
  | .subWToInd rd off rs => Sys2Proof.Machine.execSubWToInd rd off rs s
  | .subBToAddr16 addr rs => Sys2Proof.Machine.execSubBToAddr16 addr rs s
  | .subBToAddr32 addr rs => Sys2Proof.Machine.execSubBToAddr32 addr rs s
  | .subBToInd rd off rs => Sys2Proof.Machine.execSubBToInd rd off rs s
  | .subMemImm32 rd imm => Sys2Proof.Machine.execSubMemImm32 rd imm s
  | .subMemSimm16 rd imm => Sys2Proof.Machine.execSubMemSimm16 rd imm s
  | .subWMemImm16 rd imm => Sys2Proof.Machine.execSubWMemImm16 rd imm s
  | .subBMemImm8 rd imm => Sys2Proof.Machine.execSubBMemImm8 rd imm s
  | .andImm32 rd imm => Sys2Proof.Machine.execAndImm32 rd imm s
  | .andUimm16 rd imm => Sys2Proof.Machine.execAndUimm16 rd imm s
  | .andReg rd rs => Sys2Proof.Machine.execAndReg rd rs s
  | .andAddr16 rd addr => Sys2Proof.Machine.execAndAddr16 rd addr s
  | .andAddr32 rd addr => Sys2Proof.Machine.execAndAddr32 rd addr s
  | .andInd rd rs off => Sys2Proof.Machine.execAndInd rd rs off s
  | .andSWAddr16 rd addr => Sys2Proof.Machine.execAndSWAddr16 rd addr s
  | .andSWAddr32 rd addr => Sys2Proof.Machine.execAndSWAddr32 rd addr s
  | .andSWInd rd rs off => Sys2Proof.Machine.execAndSWInd rd rs off s
  | .andUWAddr16 rd addr => Sys2Proof.Machine.execAndUWAddr16 rd addr s
  | .andUWAddr32 rd addr => Sys2Proof.Machine.execAndUWAddr32 rd addr s
  | .andUWInd rd rs off => Sys2Proof.Machine.execAndUWInd rd rs off s
  | .andSBAddr16 rd addr => Sys2Proof.Machine.execAndSBAddr16 rd addr s
  | .andSBAddr32 rd addr => Sys2Proof.Machine.execAndSBAddr32 rd addr s
  | .andSBInd rd rs off => Sys2Proof.Machine.execAndSBInd rd rs off s
  | .andUBAddr16 rd addr => Sys2Proof.Machine.execAndUBAddr16 rd addr s
  | .andUBAddr32 rd addr => Sys2Proof.Machine.execAndUBAddr32 rd addr s
  | .andUBInd rd rs off => Sys2Proof.Machine.execAndUBInd rd rs off s
  | .andToAddr16 addr rs => Sys2Proof.Machine.execAndToAddr16 addr rs s
  | .andToAddr32 addr rs => Sys2Proof.Machine.execAndToAddr32 addr rs s
  | .andToInd rd off rs => Sys2Proof.Machine.execAndToInd rd off rs s
  | .andWToAddr16 addr rs => Sys2Proof.Machine.execAndWToAddr16 addr rs s
  | .andWToAddr32 addr rs => Sys2Proof.Machine.execAndWToAddr32 addr rs s
  | .andWToInd rd off rs => Sys2Proof.Machine.execAndWToInd rd off rs s
  | .andBToAddr16 addr rs => Sys2Proof.Machine.execAndBToAddr16 addr rs s
  | .andBToAddr32 addr rs => Sys2Proof.Machine.execAndBToAddr32 addr rs s
  | .andBToInd rd off rs => Sys2Proof.Machine.execAndBToInd rd off rs s
  | .andMemImm32 rd imm => Sys2Proof.Machine.execAndMemImm32 rd imm s
  | .andMemSimm16 rd imm => Sys2Proof.Machine.execAndMemSimm16 rd imm s
  | .andWMemImm16 rd imm => Sys2Proof.Machine.execAndWMemImm16 rd imm s
  | .andBMemImm8 rd imm => Sys2Proof.Machine.execAndBMemImm8 rd imm s
  | .orImm32 rd imm => Sys2Proof.Machine.execOrImm32 rd imm s
  | .orUimm16 rd imm => Sys2Proof.Machine.execOrUimm16 rd imm s
  | .orReg rd rs => Sys2Proof.Machine.execOrReg rd rs s
  | .orAddr16 rd addr => Sys2Proof.Machine.execOrAddr16 rd addr s
  | .orAddr32 rd addr => Sys2Proof.Machine.execOrAddr32 rd addr s
  | .orInd rd rs off => Sys2Proof.Machine.execOrInd rd rs off s
  | .orSWAddr16 rd addr => Sys2Proof.Machine.execOrSWAddr16 rd addr s
  | .orSWAddr32 rd addr => Sys2Proof.Machine.execOrSWAddr32 rd addr s
  | .orSWInd rd rs off => Sys2Proof.Machine.execOrSWInd rd rs off s
  | .orUWAddr16 rd addr => Sys2Proof.Machine.execOrUWAddr16 rd addr s
  | .orUWAddr32 rd addr => Sys2Proof.Machine.execOrUWAddr32 rd addr s
  | .orUWInd rd rs off => Sys2Proof.Machine.execOrUWInd rd rs off s
  | .orSBAddr16 rd addr => Sys2Proof.Machine.execOrSBAddr16 rd addr s
  | .orSBAddr32 rd addr => Sys2Proof.Machine.execOrSBAddr32 rd addr s
  | .orSBInd rd rs off => Sys2Proof.Machine.execOrSBInd rd rs off s
  | .orUBAddr16 rd addr => Sys2Proof.Machine.execOrUBAddr16 rd addr s
  | .orUBAddr32 rd addr => Sys2Proof.Machine.execOrUBAddr32 rd addr s
  | .orUBInd rd rs off => Sys2Proof.Machine.execOrUBInd rd rs off s
  | .orToAddr16 addr rs => Sys2Proof.Machine.execOrToAddr16 addr rs s
  | .orToAddr32 addr rs => Sys2Proof.Machine.execOrToAddr32 addr rs s
  | .orToInd rd off rs => Sys2Proof.Machine.execOrToInd rd off rs s
  | .orWToAddr16 addr rs => Sys2Proof.Machine.execOrWToAddr16 addr rs s
  | .orWToAddr32 addr rs => Sys2Proof.Machine.execOrWToAddr32 addr rs s
  | .orWToInd rd off rs => Sys2Proof.Machine.execOrWToInd rd off rs s
  | .orBToAddr16 addr rs => Sys2Proof.Machine.execOrBToAddr16 addr rs s
  | .orBToAddr32 addr rs => Sys2Proof.Machine.execOrBToAddr32 addr rs s
  | .orBToInd rd off rs => Sys2Proof.Machine.execOrBToInd rd off rs s
  | .orMemImm32 rd imm => Sys2Proof.Machine.execOrMemImm32 rd imm s
  | .orMemSimm16 rd imm => Sys2Proof.Machine.execOrMemSimm16 rd imm s
  | .orWMemImm16 rd imm => Sys2Proof.Machine.execOrWMemImm16 rd imm s
  | .orBMemImm8 rd imm => Sys2Proof.Machine.execOrBMemImm8 rd imm s
  | .xorImm32 rd imm => Sys2Proof.Machine.execXorImm32 rd imm s
  | .xorUimm16 rd imm => Sys2Proof.Machine.execXorUimm16 rd imm s
  | .xorReg rd rs => Sys2Proof.Machine.execXorReg rd rs s
  | .xorAddr16 rd addr => Sys2Proof.Machine.execXorAddr16 rd addr s
  | .xorAddr32 rd addr => Sys2Proof.Machine.execXorAddr32 rd addr s
  | .xorInd rd rs off => Sys2Proof.Machine.execXorInd rd rs off s
  | .xorSWAddr16 rd addr => Sys2Proof.Machine.execXorSWAddr16 rd addr s
  | .xorSWAddr32 rd addr => Sys2Proof.Machine.execXorSWAddr32 rd addr s
  | .xorSWInd rd rs off => Sys2Proof.Machine.execXorSWInd rd rs off s
  | .xorUWAddr16 rd addr => Sys2Proof.Machine.execXorUWAddr16 rd addr s
  | .xorUWAddr32 rd addr => Sys2Proof.Machine.execXorUWAddr32 rd addr s
  | .xorUWInd rd rs off => Sys2Proof.Machine.execXorUWInd rd rs off s
  | .xorSBAddr16 rd addr => Sys2Proof.Machine.execXorSBAddr16 rd addr s
  | .xorSBAddr32 rd addr => Sys2Proof.Machine.execXorSBAddr32 rd addr s
  | .xorSBInd rd rs off => Sys2Proof.Machine.execXorSBInd rd rs off s
  | .xorUBAddr16 rd addr => Sys2Proof.Machine.execXorUBAddr16 rd addr s
  | .xorUBAddr32 rd addr => Sys2Proof.Machine.execXorUBAddr32 rd addr s
  | .xorUBInd rd rs off => Sys2Proof.Machine.execXorUBInd rd rs off s
  | .xorToAddr16 addr rs => Sys2Proof.Machine.execXorToAddr16 addr rs s
  | .xorToAddr32 addr rs => Sys2Proof.Machine.execXorToAddr32 addr rs s
  | .xorToInd rd off rs => Sys2Proof.Machine.execXorToInd rd off rs s
  | .xorWToAddr16 addr rs => Sys2Proof.Machine.execXorWToAddr16 addr rs s
  | .xorWToAddr32 addr rs => Sys2Proof.Machine.execXorWToAddr32 addr rs s
  | .xorWToInd rd off rs => Sys2Proof.Machine.execXorWToInd rd off rs s
  | .xorBToAddr16 addr rs => Sys2Proof.Machine.execXorBToAddr16 addr rs s
  | .xorBToAddr32 addr rs => Sys2Proof.Machine.execXorBToAddr32 addr rs s
  | .xorBToInd rd off rs => Sys2Proof.Machine.execXorBToInd rd off rs s
  | .xorMemImm32 rd imm => Sys2Proof.Machine.execXorMemImm32 rd imm s
  | .xorMemSimm16 rd imm => Sys2Proof.Machine.execXorMemSimm16 rd imm s
  | .xorWMemImm16 rd imm => Sys2Proof.Machine.execXorWMemImm16 rd imm s
  | .xorBMemImm8 rd imm => Sys2Proof.Machine.execXorBMemImm8 rd imm s
  | .cpImm32 rd imm => Sys2Proof.Machine.execCpImm32 rd imm s
  | .cpUimm16 rd imm => Sys2Proof.Machine.execCpUimm16 rd imm s
  | .cpReg rd rs => Sys2Proof.Machine.execCpReg rd rs s
  | .cpAddr16 rd addr => Sys2Proof.Machine.execCpAddr16 rd addr s
  | .cpAddr32 rd addr => Sys2Proof.Machine.execCpAddr32 rd addr s
  | .cpInd rd rs off => Sys2Proof.Machine.execCpInd rd rs off s
  | .cpSWAddr16 rd addr => Sys2Proof.Machine.execCpSWAddr16 rd addr s
  | .cpSWAddr32 rd addr => Sys2Proof.Machine.execCpSWAddr32 rd addr s
  | .cpSWInd rd rs off => Sys2Proof.Machine.execCpSWInd rd rs off s
  | .cpUWAddr16 rd addr => Sys2Proof.Machine.execCpUWAddr16 rd addr s
  | .cpUWAddr32 rd addr => Sys2Proof.Machine.execCpUWAddr32 rd addr s
  | .cpUWInd rd rs off => Sys2Proof.Machine.execCpUWInd rd rs off s
  | .cpSBAddr16 rd addr => Sys2Proof.Machine.execCpSBAddr16 rd addr s
  | .cpSBAddr32 rd addr => Sys2Proof.Machine.execCpSBAddr32 rd addr s
  | .cpSBInd rd rs off => Sys2Proof.Machine.execCpSBInd rd rs off s
  | .cpUBAddr16 rd addr => Sys2Proof.Machine.execCpUBAddr16 rd addr s
  | .cpUBAddr32 rd addr => Sys2Proof.Machine.execCpUBAddr32 rd addr s
  | .cpUBInd rd rs off => Sys2Proof.Machine.execCpUBInd rd rs off s
  | .cpToAddr16 addr rs => Sys2Proof.Machine.execCpToAddr16 addr rs s
  | .cpToAddr32 addr rs => Sys2Proof.Machine.execCpToAddr32 addr rs s
  | .cpToInd rd off rs => Sys2Proof.Machine.execCpToInd rd off rs s
  | .cpWToAddr16 addr rs => Sys2Proof.Machine.execCpWToAddr16 addr rs s
  | .cpWToAddr32 addr rs => Sys2Proof.Machine.execCpWToAddr32 addr rs s
  | .cpWToInd rd off rs => Sys2Proof.Machine.execCpWToInd rd off rs s
  | .cpBToAddr16 addr rs => Sys2Proof.Machine.execCpBToAddr16 addr rs s
  | .cpBToAddr32 addr rs => Sys2Proof.Machine.execCpBToAddr32 addr rs s
  | .cpBToInd rd off rs => Sys2Proof.Machine.execCpBToInd rd off rs s
  | .cpMemImm32 rd imm => Sys2Proof.Machine.execCpMemImm32 rd imm s
  | .cpMemSimm16 rd imm => Sys2Proof.Machine.execCpMemSimm16 rd imm s
  | .cpWMemImm16 rd imm => Sys2Proof.Machine.execCpWMemImm16 rd imm s
  | .cpBMemImm8 rd imm => Sys2Proof.Machine.execCpBMemImm8 rd imm s
  | .tmImm32 rd imm => Sys2Proof.Machine.execTmImm32 rd imm s
  | .tmUimm16 rd imm => Sys2Proof.Machine.execTmUimm16 rd imm s
  | .tmReg rd rs => Sys2Proof.Machine.execTmReg rd rs s
  | .tmAddr16 rd addr => Sys2Proof.Machine.execTmAddr16 rd addr s
  | .tmAddr32 rd addr => Sys2Proof.Machine.execTmAddr32 rd addr s
  | .tmInd rd rs off => Sys2Proof.Machine.execTmInd rd rs off s
  | .tmSWAddr16 rd addr => Sys2Proof.Machine.execTmSWAddr16 rd addr s
  | .tmSWAddr32 rd addr => Sys2Proof.Machine.execTmSWAddr32 rd addr s
  | .tmSWInd rd rs off => Sys2Proof.Machine.execTmSWInd rd rs off s
  | .tmUWAddr16 rd addr => Sys2Proof.Machine.execTmUWAddr16 rd addr s
  | .tmUWAddr32 rd addr => Sys2Proof.Machine.execTmUWAddr32 rd addr s
  | .tmUWInd rd rs off => Sys2Proof.Machine.execTmUWInd rd rs off s
  | .tmSBAddr16 rd addr => Sys2Proof.Machine.execTmSBAddr16 rd addr s
  | .tmSBAddr32 rd addr => Sys2Proof.Machine.execTmSBAddr32 rd addr s
  | .tmSBInd rd rs off => Sys2Proof.Machine.execTmSBInd rd rs off s
  | .tmUBAddr16 rd addr => Sys2Proof.Machine.execTmUBAddr16 rd addr s
  | .tmUBAddr32 rd addr => Sys2Proof.Machine.execTmUBAddr32 rd addr s
  | .tmUBInd rd rs off => Sys2Proof.Machine.execTmUBInd rd rs off s
  | .tmToAddr16 addr rs => Sys2Proof.Machine.execTmToAddr16 addr rs s
  | .tmToAddr32 addr rs => Sys2Proof.Machine.execTmToAddr32 addr rs s
  | .tmToInd rd off rs => Sys2Proof.Machine.execTmToInd rd off rs s
  | .tmWToAddr16 addr rs => Sys2Proof.Machine.execTmWToAddr16 addr rs s
  | .tmWToAddr32 addr rs => Sys2Proof.Machine.execTmWToAddr32 addr rs s
  | .tmWToInd rd off rs => Sys2Proof.Machine.execTmWToInd rd off rs s
  | .tmBToAddr16 addr rs => Sys2Proof.Machine.execTmBToAddr16 addr rs s
  | .tmBToAddr32 addr rs => Sys2Proof.Machine.execTmBToAddr32 addr rs s
  | .tmBToInd rd off rs => Sys2Proof.Machine.execTmBToInd rd off rs s
  | .tmMemImm32 rd imm => Sys2Proof.Machine.execTmMemImm32 rd imm s
  | .tmMemSimm16 rd imm => Sys2Proof.Machine.execTmMemSimm16 rd imm s
  | .tmWMemImm16 rd imm => Sys2Proof.Machine.execTmWMemImm16 rd imm s
  | .tmBMemImm8 rd imm => Sys2Proof.Machine.execTmBMemImm8 rd imm s
  | .tcmImm32 rd imm => Sys2Proof.Machine.execTcmImm32 rd imm s
  | .tcmUimm16 rd imm => Sys2Proof.Machine.execTcmUimm16 rd imm s
  | .tcmReg rd rs => Sys2Proof.Machine.execTcmReg rd rs s
  | .tcmAddr16 rd addr => Sys2Proof.Machine.execTcmAddr16 rd addr s
  | .tcmAddr32 rd addr => Sys2Proof.Machine.execTcmAddr32 rd addr s
  | .tcmInd rd rs off => Sys2Proof.Machine.execTcmInd rd rs off s
  | .tcmSWAddr16 rd addr => Sys2Proof.Machine.execTcmSWAddr16 rd addr s
  | .tcmSWAddr32 rd addr => Sys2Proof.Machine.execTcmSWAddr32 rd addr s
  | .tcmSWInd rd rs off => Sys2Proof.Machine.execTcmSWInd rd rs off s
  | .tcmUWAddr16 rd addr => Sys2Proof.Machine.execTcmUWAddr16 rd addr s
  | .tcmUWAddr32 rd addr => Sys2Proof.Machine.execTcmUWAddr32 rd addr s
  | .tcmUWInd rd rs off => Sys2Proof.Machine.execTcmUWInd rd rs off s
  | .tcmSBAddr16 rd addr => Sys2Proof.Machine.execTcmSBAddr16 rd addr s
  | .tcmSBAddr32 rd addr => Sys2Proof.Machine.execTcmSBAddr32 rd addr s
  | .tcmSBInd rd rs off => Sys2Proof.Machine.execTcmSBInd rd rs off s
  | .tcmUBAddr16 rd addr => Sys2Proof.Machine.execTcmUBAddr16 rd addr s
  | .tcmUBAddr32 rd addr => Sys2Proof.Machine.execTcmUBAddr32 rd addr s
  | .tcmUBInd rd rs off => Sys2Proof.Machine.execTcmUBInd rd rs off s
  | .tcmToAddr16 addr rs => Sys2Proof.Machine.execTcmToAddr16 addr rs s
  | .tcmToAddr32 addr rs => Sys2Proof.Machine.execTcmToAddr32 addr rs s
  | .tcmToInd rd off rs => Sys2Proof.Machine.execTcmToInd rd off rs s
  | .tcmWToAddr16 addr rs => Sys2Proof.Machine.execTcmWToAddr16 addr rs s
  | .tcmWToAddr32 addr rs => Sys2Proof.Machine.execTcmWToAddr32 addr rs s
  | .tcmWToInd rd off rs => Sys2Proof.Machine.execTcmWToInd rd off rs s
  | .tcmBToAddr16 addr rs => Sys2Proof.Machine.execTcmBToAddr16 addr rs s
  | .tcmBToAddr32 addr rs => Sys2Proof.Machine.execTcmBToAddr32 addr rs s
  | .tcmBToInd rd off rs => Sys2Proof.Machine.execTcmBToInd rd off rs s
  | .tcmMemImm32 rd imm => Sys2Proof.Machine.execTcmMemImm32 rd imm s
  | .tcmMemSimm16 rd imm => Sys2Proof.Machine.execTcmMemSimm16 rd imm s
  | .tcmWMemImm16 rd imm => Sys2Proof.Machine.execTcmWMemImm16 rd imm s
  | .tcmBMemImm8 rd imm => Sys2Proof.Machine.execTcmBMemImm8 rd imm s
  | .addReg3 rd rs1 rs2 => Sys2Proof.Machine.execAddReg3 rd rs1 rs2 s
  | .addSimm8 rd imm => Sys2Proof.Machine.execAddSimm8 rd imm s
  | .cpSimm8 rd imm => Sys2Proof.Machine.execCpSimm8 rd imm s
  | .clrAddr16 addr => Sys2Proof.Machine.execClrAddr16 addr s
  | .clrAddr32 addr => Sys2Proof.Machine.execClrAddr32 addr s
  | .clrMem rd => Sys2Proof.Machine.execClrMem rd s
  | .clrInd rd off => Sys2Proof.Machine.execClrInd rd off s
  | .clrWAddr16 addr => Sys2Proof.Machine.execClrWAddr16 addr s
  | .clrWAddr32 addr => Sys2Proof.Machine.execClrWAddr32 addr s
  | .clrWMem rd => Sys2Proof.Machine.execClrWMem rd s
  | .clrWInd rd off => Sys2Proof.Machine.execClrWInd rd off s
  | .clrBAddr16 addr => Sys2Proof.Machine.execClrBAddr16 addr s
  | .clrBAddr32 addr => Sys2Proof.Machine.execClrBAddr32 addr s
  | .clrBMem rd => Sys2Proof.Machine.execClrBMem rd s
  | .clrBInd rd off => Sys2Proof.Machine.execClrBInd rd off s
  | .cpzAddr16 addr => Sys2Proof.Machine.execCpzAddr16 addr s
  | .cpzAddr32 addr => Sys2Proof.Machine.execCpzAddr32 addr s
  | .cpzMem rd => Sys2Proof.Machine.execCpzMem rd s
  | .cpzInd rd off => Sys2Proof.Machine.execCpzInd rd off s
  | .cpzWAddr16 addr => Sys2Proof.Machine.execCpzWAddr16 addr s
  | .cpzWAddr32 addr => Sys2Proof.Machine.execCpzWAddr32 addr s
  | .cpzWMem rd => Sys2Proof.Machine.execCpzWMem rd s
  | .cpzWInd rd off => Sys2Proof.Machine.execCpzWInd rd off s
  | .cpzBAddr16 addr => Sys2Proof.Machine.execCpzBAddr16 addr s
  | .cpzBAddr32 addr => Sys2Proof.Machine.execCpzBAddr32 addr s
  | .cpzBMem rd => Sys2Proof.Machine.execCpzBMem rd s
  | .cpzBInd rd off => Sys2Proof.Machine.execCpzBInd rd off s
  | .incAddr16 addr => Sys2Proof.Machine.execIncAddr16 addr s
  | .incAddr32 addr => Sys2Proof.Machine.execIncAddr32 addr s
  | .incMem rd => Sys2Proof.Machine.execIncMem rd s
  | .incInd rd off => Sys2Proof.Machine.execIncInd rd off s
  | .incWAddr16 addr => Sys2Proof.Machine.execIncWAddr16 addr s
  | .incWAddr32 addr => Sys2Proof.Machine.execIncWAddr32 addr s
  | .incWMem rd => Sys2Proof.Machine.execIncWMem rd s
  | .incWInd rd off => Sys2Proof.Machine.execIncWInd rd off s
  | .incBAddr16 addr => Sys2Proof.Machine.execIncBAddr16 addr s
  | .incBAddr32 addr => Sys2Proof.Machine.execIncBAddr32 addr s
  | .incBMem rd => Sys2Proof.Machine.execIncBMem rd s
  | .incBInd rd off => Sys2Proof.Machine.execIncBInd rd off s
  | .decAddr16 addr => Sys2Proof.Machine.execDecAddr16 addr s
  | .decAddr32 addr => Sys2Proof.Machine.execDecAddr32 addr s
  | .decMem rd => Sys2Proof.Machine.execDecMem rd s
  | .decInd rd off => Sys2Proof.Machine.execDecInd rd off s
  | .decWAddr16 addr => Sys2Proof.Machine.execDecWAddr16 addr s
  | .decWAddr32 addr => Sys2Proof.Machine.execDecWAddr32 addr s
  | .decWMem rd => Sys2Proof.Machine.execDecWMem rd s
  | .decWInd rd off => Sys2Proof.Machine.execDecWInd rd off s
  | .decBAddr16 addr => Sys2Proof.Machine.execDecBAddr16 addr s
  | .decBAddr32 addr => Sys2Proof.Machine.execDecBAddr32 addr s
  | .decBMem rd => Sys2Proof.Machine.execDecBMem rd s
  | .decBInd rd off => Sys2Proof.Machine.execDecBInd rd off s
  | .ldPc rd off => Sys2Proof.Machine.execLdPc rd off s
  | .ldAddr16 rd addr => Sys2Proof.Machine.execLdAddr16 rd addr s
  | .ldAddr32 rd addr => Sys2Proof.Machine.execLdAddr32 rd addr s
  | .ldMem rd rs => Sys2Proof.Machine.execLdMem rd rs s
  | .ldPostInc rd rs => Sys2Proof.Machine.execLdPostInc rd rs s
  | .ldInd rd rs off => Sys2Proof.Machine.execLdInd rd rs off s
  | .ldFp rd off => Sys2Proof.Machine.execLdFp rd off s
  | .ldUBPc rd off => Sys2Proof.Machine.execLdUBPc rd off s
  | .ldUBAddr16 rd addr => Sys2Proof.Machine.execLdUBAddr16 rd addr s
  | .ldUBAddr32 rd addr => Sys2Proof.Machine.execLdUBAddr32 rd addr s
  | .ldUBMem rd rs => Sys2Proof.Machine.execLdUBMem rd rs s
  | .ldUBPostInc rd rs => Sys2Proof.Machine.execLdUBPostInc rd rs s
  | .ldUBInd rd rs off => Sys2Proof.Machine.execLdUBInd rd rs off s
  | .ldUBFp rd off => Sys2Proof.Machine.execLdUBFp rd off s
  | .ldUWPc rd off => Sys2Proof.Machine.execLdUWPc rd off s
  | .ldUWAddr16 rd addr => Sys2Proof.Machine.execLdUWAddr16 rd addr s
  | .ldUWAddr32 rd addr => Sys2Proof.Machine.execLdUWAddr32 rd addr s
  | .ldUWMem rd rs => Sys2Proof.Machine.execLdUWMem rd rs s
  | .ldUWPostInc rd rs => Sys2Proof.Machine.execLdUWPostInc rd rs s
  | .ldUWInd rd rs off => Sys2Proof.Machine.execLdUWInd rd rs off s
  | .ldUWFp rd off => Sys2Proof.Machine.execLdUWFp rd off s
  | .ldSBPc rd off => Sys2Proof.Machine.execLdSBPc rd off s
  | .ldSBAddr16 rd addr => Sys2Proof.Machine.execLdSBAddr16 rd addr s
  | .ldSBAddr32 rd addr => Sys2Proof.Machine.execLdSBAddr32 rd addr s
  | .ldSBMem rd rs => Sys2Proof.Machine.execLdSBMem rd rs s
  | .ldSBPostInc rd rs => Sys2Proof.Machine.execLdSBPostInc rd rs s
  | .ldSBInd rd rs off => Sys2Proof.Machine.execLdSBInd rd rs off s
  | .ldSBFp rd off => Sys2Proof.Machine.execLdSBFp rd off s
  | .ldSWPc rd off => Sys2Proof.Machine.execLdSWPc rd off s
  | .ldSWAddr16 rd addr => Sys2Proof.Machine.execLdSWAddr16 rd addr s
  | .ldSWAddr32 rd addr => Sys2Proof.Machine.execLdSWAddr32 rd addr s
  | .ldSWMem rd rs => Sys2Proof.Machine.execLdSWMem rd rs s
  | .ldSWPostInc rd rs => Sys2Proof.Machine.execLdSWPostInc rd rs s
  | .ldSWInd rd rs off => Sys2Proof.Machine.execLdSWInd rd rs off s
  | .ldSWFp rd off => Sys2Proof.Machine.execLdSWFp rd off s
  | .ldToAddr16 addr rs => Sys2Proof.Machine.execLdToAddr16 addr rs s
  | .ldToAddr32 addr rs => Sys2Proof.Machine.execLdToAddr32 addr rs s
  | .ldToMem rd rs => Sys2Proof.Machine.execLdToMem rd rs s
  | .ldToPre rd rs => Sys2Proof.Machine.execLdToPre rd rs s
  | .ldToPost rd rs => Sys2Proof.Machine.execLdToPost rd rs s
  | .ldToInd rd off rs => Sys2Proof.Machine.execLdToInd rd off rs s
  | .ldToFp off rs => Sys2Proof.Machine.execLdToFp off rs s
  | .ldWToAddr16 addr rs => Sys2Proof.Machine.execLdWToAddr16 addr rs s
  | .ldWToAddr32 addr rs => Sys2Proof.Machine.execLdWToAddr32 addr rs s
  | .ldWToMem rd rs => Sys2Proof.Machine.execLdWToMem rd rs s
  | .ldWToPre rd rs => Sys2Proof.Machine.execLdWToPre rd rs s
  | .ldWToPost rd rs => Sys2Proof.Machine.execLdWToPost rd rs s
  | .ldWToInd rd off rs => Sys2Proof.Machine.execLdWToInd rd off rs s
  | .ldWToFp off rs => Sys2Proof.Machine.execLdWToFp off rs s
  | .ldBToAddr16 addr rs => Sys2Proof.Machine.execLdBToAddr16 addr rs s
  | .ldBToAddr32 addr rs => Sys2Proof.Machine.execLdBToAddr32 addr rs s
  | .ldBToMem rd rs => Sys2Proof.Machine.execLdBToMem rd rs s
  | .ldBToPre rd rs => Sys2Proof.Machine.execLdBToPre rd rs s
  | .ldBToPost rd rs => Sys2Proof.Machine.execLdBToPost rd rs s
  | .ldBToInd rd off rs => Sys2Proof.Machine.execLdBToInd rd off rs s
  | .ldBToFp off rs => Sys2Proof.Machine.execLdBToFp off rs s
  | .ldMemImm32 rd imm => Sys2Proof.Machine.execLdMemImm32 rd imm s
  | .ldPreImm32 rd imm => Sys2Proof.Machine.execLdPreImm32 rd imm s
  | .ldPostImm32 rd imm => Sys2Proof.Machine.execLdPostImm32 rd imm s
  | .ldMemSimm16 rd imm => Sys2Proof.Machine.execLdMemSimm16 rd imm s
  | .ldPreSimm16 rd imm => Sys2Proof.Machine.execLdPreSimm16 rd imm s
  | .ldPostSimm16 rd imm => Sys2Proof.Machine.execLdPostSimm16 rd imm s
  | .ldWMemImm16 rd imm => Sys2Proof.Machine.execLdWMemImm16 rd imm s
  | .ldWPreImm16 rd imm => Sys2Proof.Machine.execLdWPreImm16 rd imm s
  | .ldWPostImm16 rd imm => Sys2Proof.Machine.execLdWPostImm16 rd imm s
  | .ldBMemImm8 rd imm => Sys2Proof.Machine.execLdBMemImm8 rd imm s
  | .ldBPreImm8 rd imm => Sys2Proof.Machine.execLdBPreImm8 rd imm s
  | .ldBPostImm8 rd imm => Sys2Proof.Machine.execLdBPostImm8 rd imm s
  | .ldSimm8 rd imm => Sys2Proof.Machine.execLdSimm8 rd imm s
  | .ldSimm17 rd imm => Sys2Proof.Machine.execLdSimm17 rd imm s
  | .ldImm32 rd imm => Sys2Proof.Machine.execLdImm32 rd imm s
  | .ldReg rd rs => Sys2Proof.Machine.execLdReg rd rs s
  | .ldCc cc rd => Sys2Proof.Machine.execLdCc cc rd s
  | .ldes rd => Sys2Proof.Machine.execLdes rd s
  | .leaPc rd off => Sys2Proof.Machine.execLeaPc rd off s
  | .leaInd rd rs off => Sys2Proof.Machine.execLeaInd rd rs off s
  | .leaFp rd off => Sys2Proof.Machine.execLeaFp rd off s
  | .extUB rd rs => Sys2Proof.Machine.execExtUB rd rs s
  | .extUW rd rs => Sys2Proof.Machine.execExtUW rd rs s
  | .extSB rd rs => Sys2Proof.Machine.execExtSB rd rs s
  | .extSW rd rs => Sys2Proof.Machine.execExtSW rd rs s
  | .com rd => Sys2Proof.Machine.execCom rd s
  | .neg rd => Sys2Proof.Machine.execNeg rd s
  | .pushBImm8 imm => Sys2Proof.Machine.execPushBImm8 imm s
  | .pushWSimm8 imm => Sys2Proof.Machine.execPushWSimm8 imm s
  | .pushSimm8 imm => Sys2Proof.Machine.execPushSimm8 imm s
  | .pop rd => Sys2Proof.Machine.execPop rd s
  | .popUB rd => Sys2Proof.Machine.execPopUB rd s
  | .popUW rd => Sys2Proof.Machine.execPopUW rd s
  | .popSB rd => Sys2Proof.Machine.execPopSB rd s
  | .popSW rd => Sys2Proof.Machine.execPopSW rd s
  | .pushmLo mask => Sys2Proof.Machine.execPushmLo mask s
  | .pushmHi mask => Sys2Proof.Machine.execPushmHi mask s
  | .popmLo mask => Sys2Proof.Machine.execPopmLo mask s
  | .popmHi mask => Sys2Proof.Machine.execPopmHi mask s
  | .pushf => Sys2Proof.Machine.execPushf s
  | .popf => Sys2Proof.Machine.execPopf s
  | .link imm => Sys2Proof.Machine.execLink imm s
  | .unlink => Sys2Proof.Machine.execUnlink s
  | .udiv rd rs => Sys2Proof.Machine.execUdiv rd rs s
  | .sdiv rd rs => Sys2Proof.Machine.execSdiv rd rs s
  | .umul rd rs => Sys2Proof.Machine.execUmul rd rs s
  | .smul rd rs => Sys2Proof.Machine.execSmul rd rs s
  | .mul rd rs => Sys2Proof.Machine.execMul rd rs s
  | .sraReg rd rs => Sys2Proof.Machine.execSraReg rd rs s
  | .srlReg rd rs => Sys2Proof.Machine.execSrlReg rd rs s
  | .sllReg rd rs => Sys2Proof.Machine.execSllReg rd rs s
  | .rlReg rd rs => Sys2Proof.Machine.execRlReg rd rs s
  | .sraImm rd imm => Sys2Proof.Machine.execSraImm rd imm s
  | .srlImm rd imm => Sys2Proof.Machine.execSrlImm rd imm s
  | .sllImm rd imm => Sys2Proof.Machine.execSllImm rd imm s
  | .rlImm rd imm => Sys2Proof.Machine.execRlImm rd imm s
  | .jpRel12 rel => Sys2Proof.Machine.execJpRel12 rel s
  | .jpRel24 rel => Sys2Proof.Machine.execJpRel24 rel s
  | .jpInd rs => Sys2Proof.Machine.execJpInd rs s
  | .jpCcRel8 cc rel => Sys2Proof.Machine.execJpCcRel8 cc rel s
  | .jpCcRel16 cc rel => Sys2Proof.Machine.execJpCcRel16 cc rel s
  | .jpa imm => Sys2Proof.Machine.execJpa imm s
  | .callRel12 rel => Sys2Proof.Machine.execCallRel12 rel s
  | .callRel24 rel => Sys2Proof.Machine.execCallRel24 rel s
  | .callInd rs => Sys2Proof.Machine.execCallInd rs s
  | .calla imm => Sys2Proof.Machine.execCalla imm s
  | .djnz rd rel => Sys2Proof.Machine.execDjnz rd rel s
  | .trap vec => Sys2Proof.Machine.execTrap vec s
  | .ill => Sys2Proof.Machine.execIll s
  | .ret => Sys2Proof.Machine.execRet s
  | .iret => Sys2Proof.Machine.execIret s
  | .brk => Sys2Proof.Machine.execBrk s
  | .atm => Sys2Proof.Machine.execAtm s
  | .noflags => Sys2Proof.Machine.execNoflags s
  | .extend => Sys2Proof.Machine.execExtend s
  | .wdt => Sys2Proof.Machine.execWdt s
  | .stop => Sys2Proof.Machine.execStop s
  | .halt => Sys2Proof.Machine.execHalt s
  | .ei => Sys2Proof.Machine.execEi s
  | .di => Sys2Proof.Machine.execDi s
  | .nop => Sys2Proof.Machine.execNop s
  | .cpczReg rd => Sys2Proof.Machine.execCpczReg rd s

end Sys2Proof.Machine
end

