-- ==== Sys2Proof/Machine/Cycle.lean ====
section
/-! DEFINITION. The parts of one step (R533): when an interrupt is accepted, fetching and executing one instruction, what an
instruction does to the latches, and the load of a program from outside the machine. -/

namespace Sys2Proof.Machine

/-- The pending request that would be accepted with the interrupt enable as it stands: the highest, if IRQE is 1 or it is
nonmaskable (R505 (a), (b), R518, R545). -/
def wakeRequest (s : State) : Option IrqRequest :=
  s.pending.head?.filter fun q => flagIrqe s.flags || q.nonmaskable

/-- The request accepted at an instruction boundary: none in an ATM window or behind a prefix word (R505 (c), (d)). -/
def boundaryRequest (s : State) : Option IrqRequest :=
  if s.atmCount == 0 && !s.extPending && !s.noflagsPending then wakeRequest s else none

/-- The latches after an instruction other than a prefix: Extend and NOFLAGS consumed, the ATM window one shorter
(R183, R400, R533). -/
def consumeLatches (s : State) : State := { clearLatches s with atmCount := s.atmCount - 1 }

/-- What an instruction that has executed does to the latches (R533 item 5). NOFLAGS and the Extend prefix keep both latches
(D9). ATM consumes both (R411 (d)) and keeps the count it set. An illegal word is no counted instruction (D26). -/
def retire (i : Instr) (s : State) : State :=
  match i with
  | .noflags => { s with atmCount := s.atmCount - 1 }
  | .extend => { s with atmCount := s.atmCount - 1 }
  | .atm => clearLatches s
  | .ill => s
  | .brk => if s.dev.ocdBreaks then consumeLatches s else s
  | _ => consumeLatches s

/-- Whether the fetch at the PC is a Program Counter Overflow: PC above PCOV, unsigned, and PCOVF clear (R526, R524). -/
def pcOverflows (s : State) : Bool := decide (s.pcov < s.pc) && !s.sysexcp.pcovf

/-- Program Counter Overflow: the fetched instruction is not executed, the latches are cleared, and the exception pushes the
address after the instruction (R526). -/
def skipOverflow (w0 : Word) (s : State) : Out State :=
  takeException .pcOverflow (afterInstr s.pc w0) (clearLatches { s with pc := afterInstr s.pc w0 })

/-- Execute an instruction with the PC at the next one, and then update the latches (R533 item 5). -/
def executeInstr (i : Instr) (w0 : Word) (s : State) : Out State :=
  andThen (exec i { s with pc := afterInstr s.pc w0 }) fun t => .next (retire i t)

/-- Items 4 and 5 of R533: an illegal word takes its exception, an instruction executes. -/
noncomputable def executeWords (f : Fetched) (s : State) : Out State :=
  match decodeWords s.extPending f.w0 f.w1 f.w2 with
  | .instr i => executeInstr i f.w0 s
  | .illegal _ => illegalInstruction s.pc s
  | .extendUndefined _ => .refused .extendUndefined

/-- Items 3 to 6 of R533: fetch word 0 and compare the PC with PCOV as it then stands, fetch the remaining words, also of an
instruction that is skipped (R526 (b)), enter the exception or execute, and complete. -/
noncomputable def runInstruction (s : State) : Out State :=
  andThen (fetchWord s.pc s) fun w =>
  andThen (fetchRest w.1 w.2) fun f =>
  andThen (if pcOverflows w.2 then skipOverflow w.1 f.2 else executeWords f.1 f.2) finishStep

/-- Accept an interrupt, and then the stack check (R510, R533 item 2). -/
def acceptInterrupt (q : IrqRequest) (s : State) : Out State := andThen (interruptEntry q s) finishStep

/-- One step of the running CPU: an interrupt at the boundary, or one instruction (R533 items 2 to 6). -/
noncomputable def stepRunning (s : State) : Out State :=
  match boundaryRequest s with
  | some q => acceptInterrupt q s
  | none => runInstruction s

/-- Reset (R600): the device and memory stay, every other item takes its reset value (R60, R601), and the PC is loaded from
the RESET vector; an odd one is a fault (D12, U46). The model's choices where the spec gives no value (DESIGN CHOICE,
unsafe): R0 to R15 and C, Z, S, V, B become 0 (log entry 1); the requests that the Interrupt Controller presents are
dropped (log entry 50); the Watchdog Timer's counter is reloaded, 0 without a timer (log entry 41); and the DMA controller
has planned nothing and read nothing (log entry 52). -/
def resetMachine (s : State) : Out State :=
  jumpThrough s.dev.resetVector
    { State.reset with
      mem := s.mem
      dev := s.dev
      wdtEnabled := s.dev.wdtEnabledAtReset
      wdtCounter := s.dev.wdtPeriod.getD 0 }

/-- Leave Halt or Stop mode with a request, by the mode's rule (R545, R411 (c), D28). -/
def wakeBy (rule : WakeRule) (q : IrqRequest) (s : State) : Out State :=
  match rule with
  | .enter => acceptInterrupt q { s with runMode := .running, atmCount := 0 }
  | .reset => resetMachine s
  | .stay => .next s

/-- One step in Halt or Stop mode: an acceptable request wakes the CPU by the mode's rule, otherwise it stays (R545). -/
def stepWaiting (rule : WakeRule) (s : State) : Out State :=
  match wakeRequest s with
  | some q => wakeBy rule q s
  | none => .next s

/-! ### A program from outside the machine -/

/-- Whether the longest instruction can be fetched at an address: even, and all six bytes in memory (R98, R110). -/
def fetchableAt (d : Device) (a : Quad) : Bool :=
  !a.getLsbD 0 && (bytesFrom 6 a).all fun b =>
    decide (physical d b < ioBase d) && locateMem d (physical d b) != .unavailable

/-- Where a program is placed: at the PC, or at 0000_0100H where no instruction can be fetched at the PC. -/
def programPlace (s : State) : Quad := if fetchableAt s.dev s.pc then s.pc else 0x00000100#32

/-- Bytes placed in memory from an address up, as a programmer of the device does: no store of the machine. -/
def placeBytes (d : Device) (a : Quad) : List Byte → Memory → Memory
  | [], m => m
  | b :: bs, m => placeBytes d (a + 1#32) bs (Memory.write (physical d a) b m)

end Sys2Proof.Machine
end

