-- ==== Sys2Proof/Machine/Step.lean ====
section
/-! DEFINITION. One step of the machine (R533), and the state in which a given instruction is the next to be fetched. -/

namespace Sys2Proof.Machine

/-- One step (R533). A machine in the debugger makes no further step (R410, D29). -/
noncomputable def step (s : State) : Host.Outcome State Fault Refusal :=
  match s.runMode with
  | .running => stepRunning s
  | .halt => stepWaiting s.dev.haltWake s
  | .stop => stepWaiting s.dev.stopWake s
  | .debugBreak => .next s

/-- The state with an instruction, given as a number of `nbits` bits, stored where `step` fetches its next instruction: at the
PC, or at 0000_0100H with the PC moved there where nothing can be fetched at the PC, as after reset of an erased device.
It also takes what would keep the next step from running exactly that instruction out of the way: another run mode, an
interrupt about to be accepted, a PC overflow, an Extend latch, accesses that the DMA controller has planned, and notes of
stores to the place. It stands for the load of a program from outside the machine (log entry 31). -/
def State.withFetchWord (s : State) (nbits w : Nat) : State :=
  let a := programPlace s
  { s with
    pc := a
    mem := placeBytes s.dev a ((tableWords nbits w).flatMap wordBytes) s.mem
    dirty := []
    runMode := .running
    extPending := false
    dmaPlan := []
    pending := if (wakeRequest s).isSome then [] else s.pending
    pcov := if s.pcov < a then 0xFFFFFFFF#32 else s.pcov }

end Sys2Proof.Machine
end

