-- ==== Sys2Proof/Machine/Events.lean ====
section
/-! DEFINITION. What the other agents can do to the machine between steps (R4): the Interrupt Controller, the DMA controller,
the On-Chip Debugger, the Watchdog Timer, Reset (`resetMachine` of Cycle.lean), and an exception that the device adds. No
step of the CPU calls these: a run is a sequence of steps and such events. An event that cannot happen in a state leaves it
as it is. -/

namespace Sys2Proof.Machine

/-! ### The Interrupt Controller -/

/-- The Interrupt Controller presents requests of these sources, the highest priority first, each with its
`IRQ_VECTOR_ADDR(n)`; a number that is no source of the device presents nothing (R500, R9). -/
def presentRequests (sources : List Nat) (s : State) : State :=
  { s with
    pending := sources.filterMap fun n => s.dev.irqSources[n]?.map fun x => ⟨n, x.vectorAddr, x.nonmaskable⟩ }

/-! ### The DMA controller -/

/-- The DMA controller writes one byte between steps, in any run mode (R104, D20, R545). -/
def dmaWrite (a : Quad) (v : Byte) (s : State) : Out State := dmaAccess (.write a v) s

/-- The DMA controller reads one byte between steps (R104). -/
def dmaRead (a : Quad) (s : State) : Out State := dmaAccess (.read a) s

/-- The DMA controller, if the device has one, chooses what it does before each of the CPU's next byte accesses. Every plan is
allowed: what it transfers and when is the device's (R104, D20; log entry 52). -/
def planDma (plan : List (List DmaAccess)) (s : State) : State :=
  match s.dev.dmaReach with
  | [] => s
  | _ :: _ => { s with dmaPlan := plan }

/-! ### The On-Chip Debugger -/

/-- The host resumes the CPU from the debugger break, at an address of its choice (D29; log entry 40). -/
def resumeFromBreak (target : Quad) (s : State) : State :=
  match s.runMode with
  | .debugBreak => { s with runMode := .running, pc := target }
  | _ => s

/-! ### The Watchdog Timer -/

/-- The Watchdog Timer counts one period down; it counts only while it is enabled (R409, D35). It may count in every run
mode, in Halt and Stop mode and the debugger break too: whether it does there is not in the source (R545), and that it may is
the model's choice (DESIGN CHOICE, log entry 41). -/
def tickWatchdog (s : State) : State :=
  if s.wdtEnabled then { s with wdtCounter := s.wdtCounter - 1 } else s

/-- A Watchdog Timer time-out, possible only on a device with the timer, while it is enabled and has run down; its effect is
Reset (R546 (c), D35). That it is possible in every run mode, and so can end Halt mode, Stop mode and the debugger break, is
the model's choice: R545 says it is not in the source for the two modes, and the spec is silent on the break (DESIGN CHOICE,
log entry 41). -/
def watchdogTimeout (s : State) : Out State :=
  if s.wdtEnabled && s.dev.wdtPeriod.isSome && s.wdtCounter == 0 then resetMachine s else .next s

/-! ### System exceptions that a device adds -/

/-- The device can raise its exception with this SYSEXCP bit: it has it, the bit is clear (R524), and the CPU runs. -/
def deviceExceptionReady (pos : Nat) (s : State) : Bool :=
  s.dev.extraSysExc.contains pos && !excBit (.device pos) s.sysexcp && s.runMode == .running

/-- A system exception that the device adds: R520 with its own SYSEXCP bit and the address of the next instruction (R522,
R532), and then the stack check. When it occurs, and that it clears the prefix latches, is log entry 51. -/
def deviceException (pos : Nat) (s : State) : Out State :=
  if deviceExceptionReady pos s then andThen (takeException (.device pos) s.pc (clearLatches s)) finishStep else .next s

end Sys2Proof.Machine
end

