-- ==== Sys2Proof/Safety.lean ====
section
/-! DEFINITION. The terms in which claims speak of good states and good steps. -/

namespace Sys2Proof.Machine

/-- What holds of a machine between steps: memory in its canonical form (R80), nothing of it in the I/O block (R87), an ATM
count of at most 3 (R58), no Stack Overflow request left over (R523), and, in a mode that does not fetch, an even PC. -/
structure Invariant (s : State) : Prop where
  memory : Memory.wf s.mem
  outsideIo : ∀ c ∈ s.mem, c.1 < ioBase s.dev
  atm : s.atmCount ≤ 3
  request : s.spovReq = false
  parked : s.runMode ≠ .running → s.pc.getLsbD 0 = false

/-- The step answers a next state: the machine neither faults nor meets what the spec gives no meaning to. -/
def SafeStep (s : State) : Prop := ∃ t, step s = .next t

/-- A final state that is no error: the step changes nothing (R405, R545, treatment `stuck` of 93). -/
def Stuck (s : State) : Prop := step s = .next s

end Sys2Proof.Machine
end

