-- ==== Sys2Proof/Certificates/Slice0/Forms.lean ====
section
/-! DEFINITION. The terms the obligations are stated in: the operand tables of the spec as relations, arithmetic results as
numbers, what a store leaves, what stays the same, and the stack frame of an entry. -/

namespace Sys2Proof.Claims

open Sys2Proof.Machine

/-! ### What stays the same -/

/-- State that no instruction changes except those of CPU control and the events: the latches apart. -/
structure SameMachine (s t : State) : Prop where
  atmCount : t.atmCount = s.atmCount
  pending : t.pending = s.pending
  runMode : t.runMode = s.runMode
  wdtEnabled : t.wdtEnabled = s.wdtEnabled
  wdtCounter : t.wdtCounter = s.wdtCounter
  dmaPlan : t.dmaPlan = s.dmaPlan
  dmaSeen : t.dmaSeen = s.dmaSeen
  dev : t.dev = s.dev

/-- The two prefix latches stay (R58). -/
structure SameLatches (s t : State) : Prop where
  ext : t.extPending = s.extPending
  noflags : t.noflagsPending = s.noflagsPending

/-- The control registers other than FLAGS stay (R50). -/
structure SameControl (s t : State) : Prop where
  pcov : t.pcov = s.pcov
  spov : t.spov = s.spov
  dmabw : t.dmabw = s.dmabw
  sysexcp : t.sysexcp = s.sysexcp

/-- Every register but those listed stays. -/
def RegsSameBut (rs : List Reg) (s t : State) : Prop := ∀ q, q ∉ rs → t.reg q = s.reg q

/-- Every byte of the address space reads as before; the byte that is FLAGS is left to the statement on FLAGS. -/
def ReadsSame (s t : State) : Prop := ∀ a, locate s.dev a ≠ .flags → byteAt a t = byteAt a s

/-- At most the registers listed, FLAGS and the PC differ; where R15 is not listed no Stack Overflow is requested. -/
structure OnlyRegs (rs : List Reg) (s t : State) : Prop where
  regs : RegsSameBut rs s t
  bytes : ReadsSame s t
  control : SameControl s t
  latches : SameLatches s t
  machine : SameMachine s t
  request : spReg ∉ rs → t.spovReq = s.spovReq

/-- At most the registers listed and FLAGS differ, and FLAGS is this: an instruction that goes on to the next one. -/
structure After (rs : List Reg) (flags : Byte) (s t : State) : Prop where
  only : OnlyRegs rs s t
  flags : t.flags = flags
  pc : t.pc = s.pc

/-- Nothing differs but the PC. -/
structure JumpedTo (target : Quad) (s t : State) : Prop where
  only : OnlyRegs [] s t
  flags : t.flags = s.flags
  pc : t.pc = target

/-! ### Stores -/

/-- What a byte b stored at address a leaves there, by what the address selects: memory, PCOV, SPOV and FLAGS take it, CPUCTL
takes its bits [1:0], SYSEXCP loses the bits that are 1 in it, an I/O address without a register keeps reading FFH (R50 to
R55, R86, R87). -/
def ByteLanded (a : Quad) (b : Byte) (s t : State) : Prop :=
  match locate s.dev a with
  | .flags => t.flags = b
  | .cpuctl => t.dmabw = b.extractLsb' 0 2
  | .sysexcp _ _ => byteAt a t = byteAt a s &&& ~~~b
  | .ioUnavailable => byteAt a t = 0xFF#8
  | _ => byteAt a t = b

/-- The byte of a big-endian datum that belongs at its address plus k (R92). -/
def beByte (z : Size) (v : BitVec (Size.bits z)) (k : Nat) : Byte := v.extractLsb' (8 * (Size.bytes z - 1 - k)) 8

/-- Address a selects none of the n bytes from ea up (R81). -/
def Outside (d : Device) (ea : Quad) (n : Nat) (a : Quad) : Prop :=
  ∀ k < n, physical d a ≠ physical d (ea + BitVec.ofNat 32 k)

/-- t is s with a datum stored at ea: its bytes landed, most significant first, every other byte reads as before, each control
register none of whose bytes was stored to stays, and neither a register nor anything else of the machine changed (R96). -/
structure Stored (z : Size) (ea : Quad) (v : BitVec (Size.bits z)) (s t : State) : Prop where
  landed : ∀ k < Size.bytes z, ByteLanded (ea + BitVec.ofNat 32 k) (beByte z v k) s t
  bytes : ∀ a, Outside s.dev ea (Size.bytes z) a → byteAt a t = byteAt a s
  flags : (∀ k < Size.bytes z, locate s.dev (ea + BitVec.ofNat 32 k) ≠ .flags) → t.flags = s.flags
  pcov : (∀ k < Size.bytes z, ∀ i, locate s.dev (ea + BitVec.ofNat 32 k) ≠ .pcov i) → t.pcov = s.pcov
  spov : (∀ k < Size.bytes z, ∀ i, locate s.dev (ea + BitVec.ofNat 32 k) ≠ .spov i) → t.spov = s.spov
  dmabw : (∀ k < Size.bytes z, locate s.dev (ea + BitVec.ofNat 32 k) ≠ .cpuctl) → t.dmabw = s.dmabw
  sysexcp : (∀ k < Size.bytes z, ∀ l i, locate s.dev (ea + BitVec.ofNat 32 k) ≠ .sysexcp l i) → t.sysexcp = s.sysexcp
  request : t.spovReq = s.spovReq
  regs : RegsSameBut [] s t
  pc : t.pc = s.pc
  latches : SameLatches s t
  machine : SameMachine s t

/-- t is s with SP lower by the size of a datum and the datum stored at the new SP (R99, R136). The write of R15 may request a
Stack Overflow. -/
def Pushed (z : Size) (v : BitVec (Size.bits z)) (s t : State) : Prop :=
  t.reg spReg = s.reg spReg - sizeQuad z ∧
    ∃ u, Stored z (s.reg spReg - sizeQuad z) v s u ∧ RegsSameBut [spReg] u t ∧
      t = { u with regs := t.regs, spovReq := t.spovReq }

/-- n bytes of RAM or external memory from an address up (R86, R89). -/
def PlainBytes (d : Device) (a : Quad) (n : Nat) : Prop := ∀ k < n, ∃ p, locate d (a + BitVec.ofNat 32 k) = .memory p

/-! ### The DMA controller between the CPU's byte accesses -/

/-- n turns of the DMA controller, one after the other (R104). -/
def afterTurns : Nat → State → Out State
  | 0, s => .next s
  | n + 1, s => andThen (dmaTurn s) (afterTurns n)

/-- t is s after these bytes are stored one by one, each after a turn of the DMA controller (R103, R104). -/
def StoredBetween : List (Quad × Byte) → State → State → Prop
  | [], s, t => t = s
  | x :: xs, s, t => ∃ u w, dmaTurn s = .next u ∧ Stored .byte x.1 x.2 u w ∧ StoredBetween xs w t

/-- The bytes of a big-endian datum at their addresses, in rising order (R96). -/
def datumBytes (z : Size) (a : Quad) (v : BitVec (Size.bits z)) : List (Quad × Byte) :=
  (List.range (Size.bytes z)).map fun k => (a + BitVec.ofNat 32 k, beByte z v k)

/-! ### Flags -/

/-- FLAGS from its bits (R40). -/
def flagsByte (c z n v b f1 cirqe irqe : Bool) : Byte :=
  BitVec.ofBool c ++ BitVec.ofBool z ++ BitVec.ofBool n ++ BitVec.ofBool v ++ BitVec.ofBool b ++ BitVec.ofBool f1
    ++ BitVec.ofBool cirqe ++ BitVec.ofBool irqe

/-- FLAGS f after an instruction run in s whose result gives these condition flags: F1, CIRQE and IRQE stay, and behind a
NOFLAGS prefix all of it stays (R47, R401). -/
def resultFlags (s : State) (c z n v b : Bool) (f : Byte) : Byte :=
  if s.noflagsPending then f else flagsByte c z n v b (flagF1 f) (flagCirqe f) (flagIrqe f)

/-- FLAGS as a system exception leaves it (R520, R521). -/
def exceptionFlags (s : State) : Byte :=
  flagsByte (flagC s.flags) (flagZ s.flags) (flagS s.flags) (flagV s.flags) (flagB s.flags) (flagF1 s.flags)
    (flagIrqe s.flags) (flagIrqe s.flags && !s.dev.sysexcClearsIrqe)

/-- FLAGS as an interrupt entry leaves it (R510). -/
def interruptFlags (s : State) : Byte :=
  flagsByte (flagC s.flags) (flagZ s.flags) (flagS s.flags) (flagV s.flags) (flagB s.flags) (flagF1 s.flags)
    (flagIrqe s.flags) false

/-! ### Results as numbers -/

/-- The value is 0. -/
def isZero {n : Nat} (v : BitVec n) : Bool := decide (v.toNat = 0)

/-- The value is negative in two's complement. -/
def isNegative {n : Nat} (v : BitVec n) : Bool := decide (v.toInt < 0)

/-- The number lies outside the signed range of n bits. -/
def outOfRange (n : Nat) (x : Int) : Bool := decide (2 * x < -(2 ^ n : Int) ∨ (2 ^ n : Int) ≤ 2 * x)

/-- The incoming carry of an extended operation: the Carry flag behind the Extend prefix, else 0 (R181, R207). -/
def carryIn (s : State) : Nat := if s.extPending ∧ flagC s.flags then 1 else 0

/-- Z of an operation that has an extended form: sticky behind the Extend prefix (R202 (a)). -/
def stickyZero {n : Nat} (s : State) (r : BitVec n) : Bool := isZero r && (!s.extPending || flagZ s.flags)

/-- FLAGS after the addition a + b + cin = r with these Z and B, from FLAGS f (R200). -/
def sumFlags {n : Nat} (s : State) (a b : BitVec n) (cin : Nat) (r : BitVec n) (z blank : Bool) (f : Byte) : Byte :=
  resultFlags s (decide (2 ^ n ≤ a.toNat + b.toNat + cin)) z (isNegative r) (outOfRange n (a.toInt + b.toInt + cin)) blank f

/-- FLAGS after the subtraction a - b - bin = r with these Z and B, from FLAGS f (R201). -/
def differenceFlags {n : Nat} (s : State) (a b : BitVec n) (bin : Nat) (r : BitVec n) (z blank : Bool) (f : Byte) : Byte :=
  resultFlags s (decide (a.toNat < b.toNat + bin)) z (isNegative r) (outOfRange n (a.toInt - b.toInt - bin)) blank f

/-- r is the sum a + b + cin modulo 2^n (R200). -/
def IsSum {n : Nat} (a b : BitVec n) (cin : Nat) (r : BitVec n) : Prop := r.toNat = (a.toNat + b.toNat + cin) % 2 ^ n

/-- r is the difference a - b - bin modulo 2^n (R201). -/
def IsDifference {n : Nat} (a b : BitVec n) (bin : Nat) (r : BitVec n) : Prop :=
  (r.toNat : Int) = (a.toNat - b.toNat - bin) % (2 ^ n : Int)

/-- The bitwise operations by the result bit they make of a destination bit and a source bit (R261 to R263, R281, R282). -/
def bitOf : Bop → Bool → Bool → Bool
  | .and, x, y => x && y
  | .or, x, y => x || y
  | .xor, x, y => x != y
  | .tm, x, y => x && y
  | .tcm, x, y => !x && y
  | _, _, _ => false

/-- r is a bitwise operation's result, bit by bit. -/
def IsBitwise {n : Nat} (op : Bop) (a b r : BitVec n) : Prop :=
  ∀ i < n, r.getLsbD i = bitOf op (a.getLsbD i) (b.getLsbD i)

/-- FLAGS after a bitwise operation with result r (R203). -/
def logicFlags {n : Nat} (s : State) (a b r : BitVec n) (f : Byte) : Byte :=
  resultFlags s (flagC f) (isZero r) (isNegative r) false (isZero a || isZero b) f

/-- cond(cc) from C, Z, S, V and B, code by code from 0000 up: B, LT, LE, ULE, OV, MI, Z, C, NB, GE, GT, UGT, NOV, PL, NZ, NC
(the table of R48). -/
def conditionTable (c z n v b : Bool) : List Bool :=
  [b, n ^^ v, z || (n ^^ v), c || z, v, n, z, c, !b, !(n ^^ v), !(z || (n ^^ v)), !(c || z), !v, !n, !z, !c]

/-! ### Operand tables -/

/-- v extended to 32 bits in the way of a kind of memory source is w (R93). -/
def Extended (k : LoadKind) (v : BitVec (Size.bits (kindSize k))) (w : Quad) : Prop :=
  if kindSigned k then w.toInt = v.toInt else w.toNat = v.toNat

/-- The register-destination forms of a binary operation, with the destination register and the source value in state s
(R204 rows 1 to 6, 16 to 21 and 26 to 31). A memory source must be readable, and its bytes those of s: the DMA
controller does nothing between the accesses (R103 (b)). -/
inductive RegOperands (s : State) : BopForm → Reg → Quad → Prop where
  | imm32 (rd : Reg) (imm : BitVec 32) : RegOperands s (.imm32 rd imm) rd imm
  | uimm16 (rd : Reg) (imm : BitVec 16) : RegOperands s (.uimm16 rd imm) rd (imm.setWidth 32)
  | reg (rd rs : Reg) : RegOperands s (.reg rd rs) rd (s.reg rs)
  | load (k : LoadKind) (rd : Reg) (m : Mem13) (b : Quad) (undisturbed : Undisturbed s)
      (readable : Readable s.dev (kindSize k) (eaMem13 m s))
      (value : Extended k (valueAt (kindSize k) (eaMem13 m s) s) b) : RegOperands s (.load k rd m) rd b

/-- The memory-destination forms of a binary operation, with the size, the address and the source value in state s
(R204 rows 7 to 15 and 22 to 25). -/
inductive MemOperands (s : State) : BopForm → (z : Size) → Quad → BitVec (Size.bits z) → Prop where
  | store (z : Size) (m : Mem13) (rs : Reg) :
      MemOperands s (.store z m rs) z (eaMem13 m s) ((s.reg rs).setWidth (Size.bits z))
  | memImm32 (rd : Reg) (imm : BitVec 32) : MemOperands s (.memImm32 rd imm) .quad (s.reg rd) imm
  | memSimm16 (rd : Reg) (imm : BitVec 16) : MemOperands s (.memSimm16 rd imm) .quad (s.reg rd) (imm.signExtend 32)
  | memWImm16 (rd : Reg) (imm : BitVec 16) : MemOperands s (.memWImm16 rd imm) .word (s.reg rd) imm
  | memBImm8 (rd : Reg) (imm : BitVec 8) : MemOperands s (.memBImm8 rd imm) .byte (s.reg rd) imm

/-- t is s after a read-modify-write of the datum at ea: r is stored there and FLAGS then becomes `flags` of what the store
left in FLAGS (R100 (a), D14). -/
def Updated (z : Size) (ea : Quad) (r : BitVec (Size.bits z)) (flags : Byte → Byte) (s t : State) : Prop :=
  ∃ u, Stored z ea r s u ∧ t = { u with flags := flags u.flags }

/-- The value that LD stores of an immediate, with its size (R325 to R327). -/
inductive StoreOperand : StoreVal → (z : Size) → BitVec (Size.bits z) → Prop where
  | imm32 (imm : BitVec 32) : StoreOperand (.imm32 imm) .quad imm
  | simm16 (imm : BitVec 16) : StoreOperand (.simm16 imm) .quad (imm.signExtend 32)
  | wImm16 (imm : BitVec 16) : StoreOperand (.wImm16 imm) .word imm
  | bImm8 (imm : BitVec 8) : StoreOperand (.bImm8 imm) .byte imm

/-- The memory destination of a store of an immediate through a pointer (R325 to R327). -/
def destination (m : PtrMode) (rd : Reg) : StoreMem :=
  match m with
  | .mem => .mem rd
  | .preDec => .preDec rd
  | .postInc => .postInc rd

/-- t is s after LD of v to a memory destination: a predecremented pointer is lowered before the store, a postincremented one
raised after it, and v, which may depend on the lowered pointer, is stored at the address in between (R134, R321 to R327).
Only where the pointer is R15 may its write request a Stack Overflow. -/
def StoredTo (z : Size) (m : StoreMem) (v : BitVec (Size.bits z)) (s t : State) : Prop :=
  ∃ u, Stored z (eaStore m (storeBefore z m s)) v s u ∧ t = { u with regs := t.regs, spovReq := t.spovReq } ∧
    match m with
    | .preDec rd => t.reg rd = s.reg rd - sizeQuad z ∧ RegsSameBut [rd] s t ∧ (rd ≠ spReg → t.spovReq = s.spovReq)
    | .postInc rd => t.reg rd = s.reg rd + sizeQuad z ∧ RegsSameBut [rd] s t ∧ (rd ≠ spReg → t.spovReq = s.spovReq)
    | _ => t = u

/-! ### Shifts -/

/-- r and c are what a shift or rotate of a by n makes, and the last bit out (R292 to R295); count 0 shifts nothing out (D5). -/
def IsShift (op : ShiftOp) (a : Quad) (n : Nat) (r : Quad) (c : Bool) : Prop :=
  match op with
  | .sra => r.toInt = a.toInt / (2 ^ n : Int) ∧ c = (decide (0 < n) && a.getLsbD (n - 1))
  | .srl => r.toNat = a.toNat / 2 ^ n ∧ c = (decide (0 < n) && a.getLsbD (n - 1))
  | .sll => r.toNat = a.toNat * 2 ^ n % 2 ^ 32 ∧ c = (decide (0 < n) && a.getLsbD (32 - n))
  | .rl => (∀ i < 32, r.getLsbD i = a.getLsbD ((i + 32 - n) % 32)) ∧ c = (decide (0 < n) && r.getLsbD 0)

/-- The bits that an extended shift moves out, as they stand in the source register (R296 to R299). -/
def IsShiftedOut (op : ShiftOp) (a : Quad) (n : Nat) (out : Quad) : Prop :=
  match op with
  | .sll => out.toNat = a.toNat / 2 ^ (32 - n)
  | _ => out.toNat = a.toNat * 2 ^ (32 - n) % 2 ^ 32

/-- FLAGS after a shift or rotate with result r and last bit out c (R290). -/
def shiftFlags (s : State) (r : Quad) (c : Bool) : Byte :=
  resultFlags s c (isZero r) (isNegative r) (c != isNegative r) false s.flags

/-- FLAGS after a multiply or a divide: C stays and B is 0 (R230 to R235). -/
def productFlags {n : Nat} (s : State) (p : BitVec n) (v : Bool) : Byte :=
  resultFlags s (flagC s.flags) (isZero p) (isNegative p) v false s.flags

/-! ### Register lists -/

/-- The registers PUSHMLO and PUSHMHI push, first one first: mask bit k is R(7 - k), for PUSHMHI R(15 - k) (R372, R373). -/
def pushedRegs (high : Bool) (mask : BitVec 8) : List Reg :=
  [0, 1, 2, 3, 4, 5, 6, 7].filterMap fun k =>
    if mask.getLsbD k then some (BitVec.ofNat 4 ((if high then 15 else 7) - k)) else none

/-- The registers POPMLO and POPMHI pop, first one first: mask bit k is R(k), for POPMHI R(8 + k) (R374, R375). -/
def poppedRegs (high : Bool) (mask : BitVec 8) : List Reg :=
  [0, 1, 2, 3, 4, 5, 6, 7].filterMap fun k =>
    if mask.getLsbD k then some (BitVec.ofNat 4 ((if high then 8 else 0) + k)) else none

/-! ### Entries: interrupts, exceptions and traps -/

/-- The six bytes of a frame at sp: the PC value, the pad byte and FLAGS (R511). -/
def FrameAt (t : State) (sp pc : Quad) (f : Byte) : Prop :=
  valueAt .quad sp t = pc ∧ byteAt (sp + 4#32) t = 0x00#8 ∧ byteAt (sp + 5#32) t = f

/-- An entry through the vector quad at v can complete in s: its frame goes to RAM or external memory, away from the vector,
which stands in memory and holds the even address `target` (R501, R511). -/
structure EntryReady (s : State) (v target : Quad) : Prop where
  memory : Memory.wf s.mem
  frame : PlainBytes s.dev (s.reg spReg - 6#32) 6
  inMemory : ∀ k < 4, ∃ p, locate s.dev (v + BitVec.ofNat 32 k) = .memory p ∨ locate s.dev (v + BitVec.ofNat 32 k) = .readOnly p
  apart : ∀ k < 4, Outside s.dev (s.reg spReg - 6#32) 6 (v + BitVec.ofNat 32 k)
  value : valueAt .quad v s = target
  even : target.getLsbD 0 = false

/-- What an entry leaves: the frame on the stack, SP lower by six, the PC at the handler, and every other register, byte of
memory and control register as before, FLAGS and SYSEXCP apart (R510, R511, R520, R440). -/
structure Entered (s t : State) (pushedPc target : Quad) : Prop where
  frame : FrameAt t (s.reg spReg - 6#32) pushedPc s.flags
  sp : t.reg spReg = s.reg spReg - 6#32
  regs : RegsSameBut [spReg] s t
  pc : t.pc = target
  bytes : ∀ a, Outside s.dev (s.reg spReg - 6#32) 6 a → locate s.dev a ≠ .flags →
    (∀ l i, locate s.dev a ≠ .sysexcp l i) → byteAt a t = byteAt a s
  pcov : t.pcov = s.pcov
  spov : t.spov = s.spov
  dmabw : t.dmabw = s.dmabw

/-- What a system exception leaves: the entry, its SYSEXCP bit set and no other, and CIRQE and IRQE as R520 and R521 say. -/
structure ExceptionTaken (e : SysExc) (s t : State) (pushedPc target : Quad) : Prop where
  entered : Entered s t pushedPc target
  flags : t.flags = exceptionFlags s
  sysexcp : t.sysexcp = setExcBit e s.sysexcp
  machine : SameMachine s t

/-- No SP value from n bytes of pushes is below SPOV, so no Stack Overflow is requested (R523). -/
def StackAbove (s : State) (n : Nat) : Prop := ∀ k < n, ¬ s.reg spReg - BitVec.ofNat 32 (k + 1) < s.spov

/-! ### Writes of R15 -/

/-- The pending Stack Overflow request when exactly these values go to R15 while SPOV stays: raised by a value below SPOV, and
never withdrawn (R523). That every write is compared, unsigned, is the spec's inference (R53, log entry 46). -/
def Requested (written : List Quad) (s t : State) : Prop :=
  t.spovReq = (s.spovReq || written.any fun v => decide (v.toNat < s.spov.toNat))

/-- What goes to R15 when each of these registers is written once. -/
def writtenOnce (rs : List Reg) (t : State) : List Quad := if spReg ∈ rs then [t.reg spReg] else []

/-- The values that an exception or a TRAP gives SP: lower by the word with FLAGS, then by the quad with the PC (R520, R440). -/
def pushesOfException (s : State) : List Quad := [s.reg spReg - 2#32, s.reg spReg - 6#32]

/-- The values that an interrupt entry gives SP, byte by byte (R510). -/
def pushesOfInterrupt (s : State) : List Quad := [1, 2, 3, 4, 5, 6].map fun n => s.reg spReg - BitVec.ofNat 32 n

/-- The register that a binary operation of this form writes, if its destination is a register (R204). -/
def bopDestination : BopForm → Option Reg
  | .imm32 rd _ => some rd
  | .uimm16 rd _ => some rd
  | .reg rd _ => some rd
  | .load _ rd _ => some rd
  | _ => none

/-- The instructions that, run in s, write R15 once, before or without a store: R15 is a destination, a pointer they update,
or the stack pointer of one push or pop. -/
inductive WritesSpOnce (s : State) : Instr → Prop where
  | bop (op : Bop) (f : BopForm) (writes : op ≠ .cp ∧ op ≠ .tm ∧ op ≠ .tcm) (h : bopDestination f = some spReg) :
    WritesSpOnce s (bopInstr op f)
  | addReg3 (rs1 rs2 : Reg) : WritesSpOnce s (.addReg3 spReg rs1 rs2)
  | addSimm8 (imm : BitVec 8) : WritesSpOnce s (.addSimm8 spReg imm)
  | load (k : LoadKind) (rd : Reg) (m : LoadMem) (h : rd = spReg ∨ m = .postInc spReg) : WritesSpOnce s (loadInstr k rd m)
  | store (z : Size) (rs : Reg) : WritesSpOnce s (storeInstr z (.preDec spReg) rs)
  | storeImm (v : StoreVal) : WritesSpOnce s (storeImmInstr .preDec spReg v)
  | ldSimm8 (imm : BitVec 8) : WritesSpOnce s (.ldSimm8 spReg imm)
  | ldSimm17 (imm : BitVec 17) : WritesSpOnce s (.ldSimm17 spReg imm)
  | ldImm32 (imm : BitVec 32) : WritesSpOnce s (.ldImm32 spReg imm)
  | ldReg (rs : Reg) : WritesSpOnce s (.ldReg spReg rs)
  | ldCc (cc : CC) : WritesSpOnce s (.ldCc cc spReg)
  | ldes : WritesSpOnce s (.ldes spReg)
  | leaPc (off : BitVec 14) : WritesSpOnce s (.leaPc spReg off)
  | leaInd (rs : Reg) (off : BitVec 14) : WritesSpOnce s (.leaInd spReg rs off)
  | leaFp (off : BitVec 6) : WritesSpOnce s (.leaFp spReg off)
  | ext (k : LoadKind) (rs : Reg) (i : Instr) (h : extInstr k spReg rs = some i) : WritesSpOnce s i
  | com : WritesSpOnce s (.com spReg)
  | neg : WritesSpOnce s (.neg spReg)
  | mul (rs : Reg) : WritesSpOnce s (.mul spReg rs)
  | umul (rd rs : Reg) (h : rd = spReg ∨ rs = spReg) : WritesSpOnce s (.umul rd rs)
  | smul (rd rs : Reg) (h : rd = spReg ∨ rs = spReg) : WritesSpOnce s (.smul rd rs)
  | shiftReg (op : ShiftOp) (rd rs : Reg) (h : rd = spReg ∨ (rs = spReg ∧ s.extPending = true)) :
    WritesSpOnce s (shiftRegInstr op rd rs)
  | shiftImm (op : ShiftOp) (imm : BitVec 5) : WritesSpOnce s (shiftImmInstr op spReg imm)
  | pushBImm8 (imm : BitVec 8) : WritesSpOnce s (.pushBImm8 imm)
  | pushWSimm8 (imm : BitVec 8) : WritesSpOnce s (.pushWSimm8 imm)
  | pushSimm8 (imm : BitVec 8) : WritesSpOnce s (.pushSimm8 imm)
  | pop (k : LoadKind) (rd : Reg) : WritesSpOnce s (popInstr k rd)
  | pushf : WritesSpOnce s .pushf
  | popf : WritesSpOnce s .popf
  | callRel12 (rel : BitVec 12) : WritesSpOnce s (.callRel12 rel)
  | callRel24 (rel : BitVec 24) : WritesSpOnce s (.callRel24 rel)
  | callInd (rs : Reg) : WritesSpOnce s (.callInd rs)
  | calla (imm : BitVec 32) : WritesSpOnce s (.calla imm)
  | ret : WritesSpOnce s .ret
  | djnz (rel : BitVec 4) : WritesSpOnce s (.djnz spReg rel)

/-- The instructions that raise R15 after a store through it (R324, R327). -/
inductive WritesSpAfterStore : Instr → Prop where
  | store (z : Size) (rs : Reg) : WritesSpAfterStore (storeInstr z (.postInc spReg) rs)
  | storeImm (v : StoreVal) : WritesSpAfterStore (storeImmInstr .postInc spReg v)

/-- The instructions that may write R15 more than once, or take an exception, which does. -/
inductive MayWriteSpOften : Instr → Prop where
  | pushmLo (mask : BitVec 8) : MayWriteSpOften (.pushmLo mask)
  | pushmHi (mask : BitVec 8) : MayWriteSpOften (.pushmHi mask)
  | popmLo (mask : BitVec 8) : MayWriteSpOften (.popmLo mask)
  | popmHi (mask : BitVec 8) : MayWriteSpOften (.popmHi mask)
  | link (imm : BitVec 8) : MayWriteSpOften (.link imm)
  | unlink : MayWriteSpOften .unlink
  | iret : MayWriteSpOften .iret
  | udiv (rd rs : Reg) : MayWriteSpOften (.udiv rd rs)
  | sdiv (rd rs : Reg) : MayWriteSpOften (.sdiv rd rs)
  | trap (vec : BitVec 8) : MayWriteSpOften (.trap vec)
  | ill : MayWriteSpOften .ill
  | brk : MayWriteSpOften .brk

/-! ### Decoding and instruction fetch -/

/-- The words of an instruction, written out, decode to it where no Extend latch is set (R121, R185). -/
def DecodesTo (ws : List Word) (i : Instr) : Prop := decode false (ws.flatMap wordBytes) = .whole (.instr i)

/-- The first instruction has an extended form, the second: the table of R181, row by row, and CP Rd,#0, whose words behind the
Extend prefix are CPCZ Rd (R215). -/
inductive ExtendedForm : Instr → Instr → Prop where
  | add (f : BopForm) : ExtendedForm (bopInstr .add f) (bopInstr .add f)
  | addReg3 (rd rs1 rs2 : Reg) : ExtendedForm (.addReg3 rd rs1 rs2) (.addReg3 rd rs1 rs2)
  | addSimm8 (rd : Reg) (imm : BitVec 8) : ExtendedForm (.addSimm8 rd imm) (.addSimm8 rd imm)
  | sub (f : BopForm) : ExtendedForm (bopInstr .sub f) (bopInstr .sub f)
  | cp (f : BopForm) : ExtendedForm (bopInstr .cp f) (bopInstr .cp f)
  | cpSimm8 (rd : Reg) (imm : BitVec 8) (h : imm ≠ 0#8) : ExtendedForm (.cpSimm8 rd imm) (.cpSimm8 rd imm)
  | cpZero (rd : Reg) : ExtendedForm (.cpSimm8 rd 0#8) (.cpczReg rd)
  | cpczReg (rd : Reg) : ExtendedForm (.cpczReg rd) (.cpczReg rd)
  | cpz (z : Size) (m : UopMem) : ExtendedForm (uopInstr .cpz z m) (uopInstr .cpz z m)
  | sraReg (rd rs : Reg) : ExtendedForm (.sraReg rd rs) (.sraReg rd rs)
  | srlReg (rd rs : Reg) : ExtendedForm (.srlReg rd rs) (.srlReg rd rs)
  | sllReg (rd rs : Reg) : ExtendedForm (.sllReg rd rs) (.sllReg rd rs)
  | udiv (rd rs : Reg) : ExtendedForm (.udiv rd rs) (.udiv rd rs)

/-- Word 0 of the instruction at the PC (R98). -/
def wordAtPc (s : State) : Word := byteAt s.pc s ++ byteAt (s.pc + 1#32) s

/-- The bytes of the instruction at the PC, as many as its word 0 says (R122). -/
def instrBytes (s : State) : List Byte := (bytesFrom (2 * instrWords (wordAtPc s)) s.pc).map fun a => byteAt a s

/-- The instruction at the PC is fetched whole and as it stands: the PC is even, every byte of the instruction is in memory
that can be fetched, and the DMA controller does nothing between the fetches (R37, R98, R103, R108, R110). -/
def Fetchable (s : State) : Prop :=
  Undisturbed s ∧ s.pc.getLsbD 0 = false ∧ ∀ a ∈ bytesFrom (2 * instrWords (wordAtPc s)) s.pc, fetchStop s a = none

end Sys2Proof.Claims
end

