-- ==== Sys2Proof/Certificates/Slice0/Obligations.lean ====
section
/-! DEFINITION. The statements for the provers. Their terms are in Forms.lean; OBLIGATIONS.json lists them. -/

open Sys2Proof Sys2Proof.Machine Sys2Proof.Claims

/-- For every well-formed instruction, with every operand at every value its encoding admits, the decoder reads that
instruction from the bytes the encoder writes, whatever bytes follow; CPCZ Rd is read with the Extend latch set. -/
def Obligations.DecodeEncode : Prop :=
  ∀ (i : Instr) (rest : List Byte), wellFormed i = true →
    decode (needsExtend i) (encodeBytes i ++ rest) = .whole (.instr i)

/-- With the Extend latch set, the words of a well-formed instruction decode to the same constructor when it has an
extended form, which are the forms of ADD, SUB and CP, CPZ of a memory operand, CPCZ Rd, SRA, SRL and SLL by a register
count, and UDIV; CP Rd,#0 to CPCZ Rd; the two prefixes, ILL and BRK to themselves; and every other instruction to no
instruction. That every other instruction is no instruction behind the prefix is a decision of the spec (D7, log entry
25), and that NOFLAGS and a second prefix still decode is another (D9, log entry 26). -/
def Obligations.ExtendedForms : Prop :=
  ∀ i : Instr, wellFormed i = true →
    (∀ j, ExtendedForm i j → decode true (encodeBytes i) = .whole (.instr j)) ∧
    (i = .noflags ∨ i = .extend ∨ i = .ill ∨ i = .brk → decode true (encodeBytes i) = .whole (.instr i)) ∧
    ((∀ j, ¬ExtendedForm i j) → i ≠ .noflags → i ≠ .extend → i ≠ .ill → i ≠ .brk →
      decode true (encodeBytes i) = .whole (.extendUndefined ((encode i).headD 0#16)))

/-- Words decode to an illegal word exactly when word 0 is one of the values 0006H, 0008H-001FH, 0040H-00FFH,
0200H-02FFH, 0900H-093FH, 4560H-47FFH, A800H-A9FFH, AD80H-AD8FH, B300H-B3FFH, F232H-FCFFH, FF00H-FFF6H, whatever the
Extend latch and the other words. -/
def Obligations.UnimplementedWords : Prop :=
  ∀ (ext : Bool) (w0 w1 w2 : Word),
    decodeWords ext w0 w1 w2 = .illegal w0 ↔
      w0.toNat = 0x0006 ∨ (0x0008 ≤ w0.toNat ∧ w0.toNat ≤ 0x001F) ∨ (0x0040 ≤ w0.toNat ∧ w0.toNat ≤ 0x00FF)
      ∨ (0x0200 ≤ w0.toNat ∧ w0.toNat ≤ 0x02FF) ∨ (0x0900 ≤ w0.toNat ∧ w0.toNat ≤ 0x093F)
      ∨ (0x4560 ≤ w0.toNat ∧ w0.toNat ≤ 0x45FF) ∨ (0x4600 ≤ w0.toNat ∧ w0.toNat ≤ 0x47FF)
      ∨ (0xA800 ≤ w0.toNat ∧ w0.toNat ≤ 0xA9FF) ∨ (0xAD80 ≤ w0.toNat ∧ w0.toNat ≤ 0xAD8F)
      ∨ (0xB300 ≤ w0.toNat ∧ w0.toNat ≤ 0xB3FF) ∨ (0xF232 ≤ w0.toNat ∧ w0.toNat ≤ 0xF2FF)
      ∨ (0xF300 ≤ w0.toNat ∧ w0.toNat ≤ 0xFCFF) ∨ (0xFF00 ≤ w0.toNat ∧ w0.toNat ≤ 0xFFF6)

/-- Seven words of object code from the worked examples of the spec decode to the instructions they are printed beside:
A0B3, 49DC FFFA, 099D 0042, FDD6, F230 0035 2920, 7214 B07B, and A1B3 behind the Extend prefix. -/
def Obligations.DecodeExamples : Prop :=
  decode false [0xA0#8, 0xB3#8] = .whole (.instr (.addReg 3#4 11#4))
    ∧ decode false [0x49#8, 0xDC#8, 0xFF#8, 0xFA#8] = .whole (.instr (.ldSWInd 12#4 13#4 0x3FFA#14))
    ∧ decode false [0x09#8, 0x9D#8, 0x00#8, 0x42#8] = .whole (.instr (.ldPreSimm16 13#4 0x0042#16))
    ∧ decode false [0xFD#8, 0xD6#8] = .whole (.instr (.djnz 6#4 0xD#4))
    ∧ decode false [0xF2#8, 0x30#8, 0x00#8, 0x35#8, 0x29#8, 0x20#8] = .whole (.instr (.jpa 0x00352920#32))
    ∧ decode false [0x72#8, 0x14#8, 0xB0#8, 0x7B#8] = .whole (.instr (.andSBAddr16 4#4 0xB07B#16))
    ∧ decode true [0xA1#8, 0xB3#8] = .whole (.instr (.subReg 3#4 11#4))

/-- When the CPU runs, no request is accepted at the boundary, the instruction at the PC can be fetched whole and lies
not above PCOV, and its bytes decode to i, then the step is exec of i with the PC past its words, then the update of the
latches, then the stack check. The DMA controller does nothing between the fetches. -/
def Obligations.StepRunsDecoded : Prop :=
  ∀ (s : State) (i : Instr), s.runMode = .running → boundaryRequest s = none → Fetchable s →
    pcOverflows s = false → decode s.extPending (instrBytes s) = .whole (.instr i) →
    step s =
      andThen (exec i { s with pc := s.pc + BitVec.ofNat 32 (2 * instrWords (wordAtPc s)) }) fun t =>
      finishStep (retire i t)

/-- When a step runs a decoded instruction i and answers a next state: Extend and NOFLAGS set their latch and keep the
other one, every other instruction clears both; ATM leaves the count 3, an illegal word (ILL, or BRK with breaks
disabled) leaves it, every other instruction lowers it by one. That the prefixes keep the other latch and that the
window counts prefixes and ATM are decisions of the spec (D9, log entry 26), and so is not counting an illegal word
(D26, log entry 29). The DMA controller does nothing between the fetches. -/
def Obligations.PrefixLatches : Prop :=
  ∀ (s t : State) (i : Instr), s.runMode = .running → boundaryRequest s = none → Fetchable s →
    pcOverflows s = false → decode s.extPending (instrBytes s) = .whole (.instr i) → step s = .next t →
    t.extPending = (decide (i = .extend) || (decide (i = .noflags) && s.extPending)) ∧
    t.noflagsPending = (decide (i = .noflags) || (decide (i = .extend) && s.noflagsPending)) ∧
    t.atmCount =
      if i = .atm then 3
      else if i = .ill ∨ (i = .brk ∧ s.dev.ocdBreaks = false) then s.atmCount else s.atmCount - 1

/-- From every state with memory in its canonical form and none of it in the I/O block, an ATM count of at most 3, no
Stack Overflow request left over and, in a mode that does not fetch, an even PC, a step that answers a next state
answers one of the same kind. -/
def Obligations.StepKeepsInvariant : Prop :=
  ∀ s t : State, Invariant s → step s = .next t → Invariant t

/-- State.reset meets the invariant that every step keeps. -/
def Obligations.ResetMeetsInvariant : Prop :=
  Invariant State.reset

/-- After reset PCOV is FFFF_FFFFH, SPOV is 0, CPUCTL reads FFH, F1, CIRQE and IRQE are 0, the SYSEXCP bits are 0, the
latches and the ATM count are clear, and the PC is the quad at the RESET vector. IRQE, the SYSEXCP bits, the latches and
the ATM count at reset are decisions of the spec (D16, D18; log entry 3), the place of the RESET vector is its default
(D3, log entry 4), and the erased memory that the vector is read from is log entry 2. -/
def Obligations.ResetState : Prop :=
  State.reset.pc = valueAt .quad State.reset.dev.resetVector State.reset
    ∧ State.reset.pcov = 0xFFFFFFFF#32 ∧ State.reset.spov = 0x00000000#32
    ∧ byteAt 0xFFFFE012#32 State.reset = 0xFF#8
    ∧ flagF1 State.reset.flags = false ∧ flagCirqe State.reset.flags = false ∧ flagIrqe State.reset.flags = false
    ∧ State.reset.sysexcp = ⟨false, false, false, false, false, []⟩
    ∧ State.reset.extPending = false ∧ State.reset.noflagsPending = false ∧ State.reset.atmCount = 0

/-- From every state whose RESET vector quad stands in memory, the reset event with an even vector answers a state with
that PC, the run mode running, every item that has a reset value at it, and memory and the device as before; with an odd
vector it is a fault. IRQE, the SYSEXCP bits, the latches and the ATM count at reset are decisions of the spec (D16,
D18; log entry 3), and so are the fault for an odd vector (D12, log entry 10) and the device's enable bit of the
Watchdog Timer (D35, log entry 41). That the presented requests are dropped (log entry 50) and that the Watchdog Timer's
counter is reloaded, 0 without a timer (log entry 41), and that the plan and the record of the DMA controller are
emptied (log entry 52), are choices of the model. -/
def Obligations.ResetEvent : Prop :=
  ∀ s : State, (∀ k < 4, ∃ p, locate s.dev (s.dev.resetVector + BitVec.ofNat 32 k) = .memory p
        ∨ locate s.dev (s.dev.resetVector + BitVec.ofNat 32 k) = .readOnly p) →
    ((valueAt .quad s.dev.resetVector s).getLsbD 0 = false →
      ∃ t, resetMachine s = .next t ∧ t.pc = valueAt .quad s.dev.resetVector s ∧ t.runMode = .running
        ∧ t.pcov = 0xFFFFFFFF#32 ∧ t.spov = 0#32 ∧ t.dmabw = 0b11#2
        ∧ flagF1 t.flags = false ∧ flagCirqe t.flags = false ∧ flagIrqe t.flags = false
        ∧ t.sysexcp = ⟨false, false, false, false, false, []⟩
        ∧ t.extPending = false ∧ t.noflagsPending = false ∧ t.atmCount = 0 ∧ t.spovReq = false
        ∧ t.pending = [] ∧ t.wdtEnabled = s.dev.wdtEnabledAtReset ∧ t.wdtCounter = s.dev.wdtPeriod.getD 0
        ∧ t.dmaPlan = [] ∧ t.dmaSeen = [] ∧ t.mem = s.mem ∧ t.dev = s.dev) ∧
    ((valueAt .quad s.dev.resetVector s).getLsbD 0 = true → resetMachine s = .fault .oddPc)

/-- Whatever the state, a step that answers a next state leaves the device parameters and every byte that the memory map
marks non-volatile as they were. That non-volatile bytes stay is the model's choice: it refuses every store to them, of
an instruction, an entry or the DMA controller, which the spec puts outside the specified behaviour (R85, U7; log
entries 14 and 42). -/
def Obligations.StepKeepsRomAndDevice : Prop :=
  ∀ s t : State, step s = .next t →
    t.dev = s.dev ∧ ∀ (a : Quad) (p : Nat), locate s.dev a = .readOnly p → byteAt a t = byteAt a s

/-- Whatever the state, a step of the running CPU that answers a next state answers one whose PC is even. What hardware
does with an odd value loaded from memory the spec does not say (R37): that the PC is even after RET, IRET, TRAP, an
exception or interrupt entry and a reset rests on the fault that takes such a value, a decision of the spec (D12, log
entry 10). -/
def Obligations.RunningStepEvenPc : Prop :=
  ∀ s t : State, s.runMode = .running → step s = .next t → t.pc.getLsbD 0 = false

/-- While the ATM count is not 0, no step of the running CPU accepts a request, by an entry or by a chained IRET: the
requests that the Interrupt Controller presents stay as they are. Nor does the DMA controller access memory: its plan
and the bytes it has read stay through such a step, its turn between two byte accesses of the CPU does nothing, and
neither does a read or a write of it between steps, in any run mode. That an IRET in the window does the normal return
is a decision of the spec (D26, log entry 29), and so is the interface of the DMA controller (D20, log entries 42 and
52). -/
def Obligations.AtomicWindow : Prop :=
  (∀ s t : State, s.runMode = .running → s.atmCount ≠ 0 → step s = .next t →
      t.pending = s.pending ∧ t.dmaPlan = s.dmaPlan ∧ t.dmaSeen = s.dmaSeen) ∧
    (∀ s : State, s.atmCount ≠ 0 → dmaTurn s = .next s) ∧
    (∀ (a : Quad) (v : Byte) (s : State), s.atmCount ≠ 0 → dmaWrite a v s = .next s ∧ dmaRead a s = .next s)

/-- A read of 1, 2 or 4 bytes, at any alignment, whose bytes can all be read answers the value whose byte k, counted
from the most significant, is the byte at the address plus k modulo 2^32. A read of an instruction is that one where the
DMA controller does nothing between its bytes; in any state byte k is the byte as it stands after k + 1 turns of the DMA
controller, and a byte that the DMA controller may read is recorded as it stands. That the DMA controller can act
between any two bytes is a decision of the spec (D20); its plan, its record and the rising order of the bytes of one
datum are choices of the model (log entry 52). -/
def Obligations.MemReadBigEndian : Prop :=
  (∀ (z : Size) (a : Quad) (s : State), Readable s.dev z a →
      ∃ v, readMem z a s = .next v ∧ (Undisturbed s → busRead z a s = .next (v, s))
        ∧ ∀ k < Size.bytes z, beByte z v k = byteAt (a + BitVec.ofNat 32 k) s) ∧
    (∀ (z : Size) (a : Quad) (s t : State), Readable s.dev z a → afterTurns (Size.bytes z) s = .next t →
      ∃ v, busRead z a s = .next (v, t) ∧ ∀ k < Size.bytes z,
        ∃ u, afterTurns (k + 1) s = .next u ∧ beByte z v k = byteAt (a + BitVec.ofNat 32 k) u) ∧
    (∀ (a : Quad) (s : State), dmaMay s a = true → Readable s.dev .byte a →
      dmaRead a s = .next { s with dmaSeen := byteAt a s :: s.dmaSeen })

/-- A write of 1, 2 or 4 bytes, at any alignment, whose bytes can all be written answers a next state in which byte k of
the value, counted from the most significant, has landed at the address plus k modulo 2^32, every byte at another place
reads as before, every control register none of whose bytes was written stays, and no register, PC, latch or anything
else has changed. A write of an instruction is that one where the DMA controller does nothing between its bytes; in any
state its bytes are stored one by one, each after a turn of the DMA controller. The store of a push is the same one, but
its low-order bytes are stored first (R99), after SP is lowered by the size. A byte that the DMA controller may write is
stored in the same way, by itself or in its turn. What lands in a control register rests on decisions of the spec and on
the log: single bytes of PCOV and SPOV (D15, log entry 17), reserved control bytes and CPUCTL [7:2], which ignore a
write (D17, D37; log entry 16), and SYSEXCP positions without a status bit (log entry 8). That the DMA controller can
act between any two bytes is a decision of the spec (D20); its plan and the rising order of the bytes of any other datum
are choices of the model (log entry 52). -/
def Obligations.MemWriteBigEndian : Prop :=
  (∀ (z : Size) (a : Quad) (v : BitVec (Size.bits z)) (s : State), Memory.wf s.mem → Writable s.dev z a →
      ∃ t, writeMem z a v s = .next t ∧ Stored z a v s t ∧
        (Undisturbed s → busWrite z a v s = .next t ∧ busWriteDown z a v s = .next t)) ∧
    (∀ (z : Size) (a : Quad) (v : BitVec (Size.bits z)) (s t : State), Memory.wf s.mem → busWrite z a v s = .next t →
      StoredBetween (datumBytes z a v) s t) ∧
    (∀ (z : Size) (a : Quad) (v : BitVec (Size.bits z)) (s t : State), Memory.wf s.mem → busWriteDown z a v s = .next t →
      StoredBetween (datumBytes z a v).reverse s t) ∧
    (∀ (z : Size) (v : BitVec (Size.bits z)) (s t : State), Memory.wf s.mem → busPush z v s = .next t →
      let sp := s.reg spReg - sizeQuad z
      StoredBetween (datumBytes z sp v).reverse (s.writeReg spReg sp) t) ∧
    (∀ (a : Quad) (v : Byte) (s : State), Memory.wf s.mem → dmaMay s a = true → Writable s.dev .byte a →
      ∃ t, dmaWrite a v s = .next t ∧ Stored .byte a v s t) ∧
    (∀ (a : Quad) (v : Byte) (plan : List (List DmaAccess)) (s : State), Memory.wf s.mem → dmaMay s a = true →
      Writable s.dev .byte a → s.dmaPlan = [.write a v] :: plan →
      ∃ t, dmaTurn s = .next t ∧ Stored .byte a v { s with dmaPlan := plan } t)

/-- An access is a read or a write of an entry or a reset (`readMem`, `writeMem`), or one of an instruction (`busRead`,
`busWrite`, and for a push `busWriteDown`), before whose bytes the DMA controller has its turns. A byte read at an I/O
address without a register answers FFH and a byte written there changes nothing beyond those turns. A read or write with
a byte that selects an unavailable external address or a peripheral register, and a write with a byte that selects
non-volatile memory, answers no next state; for one byte it stops for the reason that belongs to the place. The fault at
an unavailable address (D37, log entry 12) and the reserved control bytes that read FFH (D17, log entry 16) are
decisions of the spec; the refusals at a peripheral register and at non-volatile memory are the treatments of U6 and U7
(log entries 13 and 14). That an access of an instruction stops before any turn of the DMA controller is the model's
choice (log entry 47). -/
def Obligations.AccessWithoutMemory : Prop :=
  ∀ (z : Size) (a : Quad) (v : BitVec (Size.bits z)) (b : Byte) (s : State),
    (locate s.dev a = .ioUnavailable → readMem .byte a s = .next 0xFF#8 ∧ writeMem .byte a b s = .next s ∧
      ∀ t, dmaTurn s = .next t → busRead .byte a s = .next (0xFF#8, t) ∧ busWrite .byte a b s = .next t
        ∧ busWriteDown .byte a b s = .next t) ∧
    ((∃ k < Size.bytes z, locate s.dev (a + BitVec.ofNat 32 k) = .unavailable
        ∨ locate s.dev (a + BitVec.ofNat 32 k) = .peripheral) →
      (∀ w, readMem z a s ≠ .next w) ∧ (∀ w, busRead z a s ≠ .next w) ∧
        ∀ t, writeMem z a v s ≠ .next t ∧ busWrite z a v s ≠ .next t ∧ busWriteDown z a v s ≠ .next t) ∧
    ((∃ k < Size.bytes z, ∃ p, locate s.dev (a + BitVec.ofNat 32 k) = .readOnly p) →
      ∀ t, writeMem z a v s ≠ .next t ∧ busWrite z a v s ≠ .next t ∧ busWriteDown z a v s ≠ .next t) ∧
    (locate s.dev a = .unavailable →
      readMem .byte a s = .fault .unavailableAddress ∧ busRead .byte a s = .fault .unavailableAddress
        ∧ writeMem .byte a b s = .fault .unavailableAddress ∧ busWrite .byte a b s = .fault .unavailableAddress
        ∧ busWriteDown .byte a b s = .fault .unavailableAddress) ∧
    (locate s.dev a = .peripheral →
      readMem .byte a s = .refused .peripheralRegister ∧ busRead .byte a s = .refused .peripheralRegister
        ∧ writeMem .byte a b s = .refused .peripheralRegister ∧ busWrite .byte a b s = .refused .peripheralRegister
        ∧ busWriteDown .byte a b s = .refused .peripheralRegister) ∧
    (∀ p, locate s.dev a = .readOnly p →
      writeMem .byte a b s = .refused .storeToNonVolatile ∧ busWrite .byte a b s = .refused .storeToNonVolatile
        ∧ busWriteDown .byte a b s = .refused .storeToNonVolatile)

/-- In every device the quads at FFFF_E004H and FFFF_E00CH are PCOV and SPOV, the byte at FFFF_E010H is FLAGS, the byte
at FFFF_E012H is CPUCTL with bits [7:2] reading 1, the I/O block is the last 8 KB, and with 24 address bits two
addresses with the same low 24 bits select the same byte. CPUCTL [7:2] reading 1 (R52, C29, D37; log entry 16) and the
24 selecting address bits (D2, log entry 5) are decisions of the spec. -/
def Obligations.ControlRegisterBytes : Prop :=
  ∀ s : State,
    valueAt .quad 0xFFFFE004#32 s = s.pcov ∧ valueAt .quad 0xFFFFE00C#32 s = s.spov
    ∧ byteAt 0xFFFFE010#32 s = s.flags ∧ byteAt 0xFFFFE012#32 s = 0b111111#6 ++ s.dmabw
    ∧ (∀ i < 4, locate s.dev (0xFFFFE004#32 + BitVec.ofNat 32 i) = .pcov i
        ∧ locate s.dev (0xFFFFE00C#32 + BitVec.ofNat 32 i) = .spov i)
    ∧ locate s.dev 0xFFFFE010#32 = .flags ∧ locate s.dev 0xFFFFE012#32 = .cpuctl
    ∧ (∀ a : Quad, s.dev.addrWidth = .bits24 → locate s.dev a = locate s.dev (a ||| 0xFF000000#32))
    ∧ (∀ a : Quad, (∃ p, locate s.dev a = .memory p) → physical s.dev a < ioBase s.dev)

/-- On a device that gives SYSEXCP an address, a byte written to one of its bytes clears exactly the status bits whose
position in that byte holds a 1, sets none, those of the exceptions that a device adds among them, and a byte of zeros
changes nothing. That writing 0 has no effect is the spec's own inference (R54), and that a position without a status
bit reads 0 and ignores a write is log entry 8. -/
def Obligations.SysExcpWriteOneClears : Prop :=
  ∀ (a : Quad) (b : Byte) (l : SysExcpLayout) (i : Nat) (s : State), locate s.dev a = .sysexcp l i →
    let clears (pos : Nat) : Bool := decide (8 * (l.bytes - 1 - i) ≤ pos ∧ pos < 8 * (l.bytes - 1 - i) + 8)
      && b.getLsbD (pos - 8 * (l.bytes - 1 - i))
    ∃ t, writeMem .byte a b s = .next t ∧ byteAt a t = byteAt a s &&& ~~~b
      ∧ t.sysexcp.pcovf = (s.sysexcp.pcovf && !clears l.pcovf) ∧ t.sysexcp.spovf = (s.sysexcp.spovf && !clears l.spovf)
      ∧ t.sysexcp.div0 = (s.sysexcp.div0 && !clears l.div0) ∧ t.sysexcp.divovf = (s.sysexcp.divovf && !clears l.divovf)
      ∧ t.sysexcp.ill = (s.sysexcp.ill && !clears l.ill)
      ∧ t.sysexcp.extra = (s.sysexcp.extra.filter fun pos => !clears pos) ∧ (b = 0#8 → t = s)

/-- A 16-bit address is sign-extended, a 32-bit address is itself, an offset of 13, 14 or 6 bits is added signed to its
base register, to the PC of the next instruction or to R14, and the sum is modulo 2^32, in every operand form that has
it. -/
def Obligations.EffectiveAddresses : Prop :=
  ∀ (s : State) (r : Reg) (a : BitVec 16) (q : Quad) (o13 : BitVec 13) (o14 : BitVec 14) (o6 : BitVec 6),
    eaMem13 (.addr16 a) s = BitVec.ofInt 32 a.toInt ∧ eaMem13 (.addr32 q) s = q
    ∧ eaMem13 (.ind r o13) s = BitVec.ofInt 32 ((s.reg r).toInt + o13.toInt)
    ∧ eaUop (.addr16 a) s = BitVec.ofInt 32 a.toInt ∧ eaUop (.addr32 q) s = q ∧ eaUop (.mem r) s = s.reg r
    ∧ eaUop (.ind r o14) s = BitVec.ofInt 32 ((s.reg r).toInt + o14.toInt)
    ∧ eaLoad (.pc o14) s = BitVec.ofInt 32 (s.pc.toInt + o14.toInt)
    ∧ eaLoad (.addr16 a) s = BitVec.ofInt 32 a.toInt ∧ eaLoad (.addr32 q) s = q ∧ eaLoad (.mem r) s = s.reg r
    ∧ eaLoad (.postInc r) s = s.reg r
    ∧ eaLoad (.ind r o14) s = BitVec.ofInt 32 ((s.reg r).toInt + o14.toInt)
    ∧ eaLoad (.fp o6) s = BitVec.ofInt 32 ((s.reg 14#4).toInt + o6.toInt)
    ∧ eaStore (.addr16 a) s = BitVec.ofInt 32 a.toInt ∧ eaStore (.addr32 q) s = q
    ∧ eaStore (.mem r) s = s.reg r ∧ eaStore (.preDec r) s = s.reg r ∧ eaStore (.postInc r) s = s.reg r
    ∧ eaStore (.ind r o14) s = BitVec.ofInt 32 ((s.reg r).toInt + o14.toInt)
    ∧ eaStore (.fp o6) s = BitVec.ofInt 32 ((s.reg 14#4).toInt + o6.toInt)

/-- ADD (behind the Extend prefix ADC, which adds the Carry flag and has a sticky Z), in all 33 forms: the destination
register or the datum at the effective address becomes the sum modulo 2^size, C is the unsigned carry, V the signed
overflow, S the sign, B that an operand was 0, NOFLAGS leaves FLAGS alone, and nothing else changes. Constructors: every
addXxx (the 31 of bopInstr .add, addReg3, addSimm8). That ADD Rd,Rs1+Rs2 does not add Rd, and that a store to FLAGS
comes before the flag update, are decisions of the spec (D4, D14; log entries 21 and 18), and so is that B tests a
register source cut to the size of a byte or word destination (D6, log entry 19). The memory clauses are for states in
which the DMA controller does nothing between the byte accesses; MemReadBigEndian and MemWriteBigEndian say what it can
do there. -/
def Obligations.Addition : Prop :=
  (∀ (f : BopForm) (rd : Reg) (b : Quad) (s : State), RegOperands s f rd b →
      ∃ t, exec (bopInstr .add f) s = .next t ∧ IsSum (s.reg rd) b (carryIn s) (t.reg rd)
        ∧ After [rd] (sumFlags s (s.reg rd) b (carryIn s) (t.reg rd) (stickyZero s (t.reg rd))
            (isZero (s.reg rd) || isZero b) s.flags) s t) ∧
    (∀ (f : BopForm) (z : Size) (ea : Quad) (b : BitVec (Size.bits z)) (s : State), MemOperands s f z ea b →
      Undisturbed s → Memory.wf s.mem → Writable s.dev z ea →
      ∃ r t, exec (bopInstr .add f) s = .next t ∧ IsSum (valueAt z ea s) b (carryIn s) r
        ∧ Updated z ea r (sumFlags s (valueAt z ea s) b (carryIn s) r (stickyZero s r)
            (isZero (valueAt z ea s) || isZero b)) s t) ∧
    (∀ (rd rs1 rs2 : Reg) (s : State),
      ∃ t, exec (.addReg3 rd rs1 rs2) s = .next t ∧ IsSum (s.reg rs1) (s.reg rs2) (carryIn s) (t.reg rd)
        ∧ After [rd] (sumFlags s (s.reg rs1) (s.reg rs2) (carryIn s) (t.reg rd) (stickyZero s (t.reg rd))
            (isZero (s.reg rs1) || isZero (s.reg rs2)) s.flags) s t) ∧
    (∀ (rd : Reg) (imm : BitVec 8) (s : State),
      ∃ t, exec (.addSimm8 rd imm) s = .next t ∧ IsSum (s.reg rd) (BitVec.ofInt 32 imm.toInt) (carryIn s) (t.reg rd)
        ∧ After [rd] (sumFlags s (s.reg rd) (BitVec.ofInt 32 imm.toInt) (carryIn s) (t.reg rd)
            (stickyZero s (t.reg rd)) (isZero (s.reg rd) || isZero imm) s.flags) s t)

/-- SUB (behind the Extend prefix SBC, which subtracts the Carry flag and has a sticky Z), in all 31 forms: the
destination becomes the difference modulo 2^size, C is the unsigned borrow, V the signed overflow, S the sign, B that an
operand was 0, NOFLAGS leaves FLAGS alone, and nothing else changes. Constructors: every subXxx. That B tests a register
source cut to the size of a byte or word destination, and that a store to FLAGS comes before the flag update, are
decisions of the spec (D6, D14; log entries 19 and 18). The memory clauses are for states in which the DMA controller
does nothing between the byte accesses; MemReadBigEndian and MemWriteBigEndian say what it can do there. -/
def Obligations.Subtraction : Prop :=
  (∀ (f : BopForm) (rd : Reg) (b : Quad) (s : State), RegOperands s f rd b →
      ∃ t, exec (bopInstr .sub f) s = .next t ∧ IsDifference (s.reg rd) b (carryIn s) (t.reg rd)
        ∧ After [rd] (differenceFlags s (s.reg rd) b (carryIn s) (t.reg rd) (stickyZero s (t.reg rd))
            (isZero (s.reg rd) || isZero b) s.flags) s t) ∧
    (∀ (f : BopForm) (z : Size) (ea : Quad) (b : BitVec (Size.bits z)) (s : State), MemOperands s f z ea b →
      Undisturbed s → Memory.wf s.mem → Writable s.dev z ea →
      ∃ r t, exec (bopInstr .sub f) s = .next t ∧ IsDifference (valueAt z ea s) b (carryIn s) r
        ∧ Updated z ea r (differenceFlags s (valueAt z ea s) b (carryIn s) r (stickyZero s r)
            (isZero (valueAt z ea s) || isZero b)) s t)

/-- CP (behind the Extend prefix CPC), in all 31 forms and with #simm8: the flags are those of destination minus source
(minus the Carry flag, Z sticky), and no register, memory byte or anything else changes. Constructors: every cpXxx (the
31 of bopInstr .cp, cpSimm8). That B tests a register source cut to the size of a byte or word memory operand is a
decision of the spec (D6, log entry 19). The memory clauses are for states in which the DMA controller does nothing
between the byte accesses; MemReadBigEndian and MemWriteBigEndian say what it can do there. -/
def Obligations.Comparison : Prop :=
  (∀ (f : BopForm) (rd : Reg) (b : Quad) (s : State), RegOperands s f rd b →
      ∃ r t, exec (bopInstr .cp f) s = .next t ∧ IsDifference (s.reg rd) b (carryIn s) r
        ∧ After [] (differenceFlags s (s.reg rd) b (carryIn s) r (stickyZero s r)
            (isZero (s.reg rd) || isZero b) s.flags) s t) ∧
    (∀ (f : BopForm) (z : Size) (ea : Quad) (b : BitVec (Size.bits z)) (s : State), MemOperands s f z ea b →
      Undisturbed s → Readable s.dev z ea →
      ∃ r t, exec (bopInstr .cp f) s = .next t ∧ IsDifference (valueAt z ea s) b (carryIn s) r
        ∧ After [] (differenceFlags s (valueAt z ea s) b (carryIn s) r (stickyZero s r)
            (isZero (valueAt z ea s) || isZero b) s.flags) s t) ∧
    (∀ (rd : Reg) (imm : BitVec 8) (s : State),
      ∃ r t, exec (.cpSimm8 rd imm) s = .next t ∧ IsDifference (s.reg rd) (BitVec.ofInt 32 imm.toInt) (carryIn s) r
        ∧ After [] (differenceFlags s (s.reg rd) (BitVec.ofInt 32 imm.toInt) (carryIn s) r (stickyZero s r)
            (isZero (s.reg rd) || isZero imm) s.flags) s t)

/-- Each of the sixteen condition codes tests the flags C, Z, S, V and B as the table of R48 says, whatever F1, CIRQE
and IRQE. After CP Rd,Rs that no prefix modifies, EQ and NE say whether the registers are equal, ULT, UGE, ULE and UGT
their unsigned order, and LT, GE, LE and GT their signed order. -/
def Obligations.ConditionsAfterCompare : Prop :=
  (∀ (cc : CC) (c z n v b f1 cirqe irqe : Bool),
      (conditionTable c z n v b)[cc.toNat]? = some (cond cc (flagsByte c z n v b f1 cirqe irqe))) ∧
    (∀ (rd rs : Reg) (s : State), s.extPending = false → s.noflagsPending = false →
      ∃ t, exec (.cpReg rd rs) s = .next t
        ∧ cond 0x6#4 t.flags = decide ((s.reg rd).toNat = (s.reg rs).toNat)
        ∧ cond 0xE#4 t.flags = decide ((s.reg rd).toNat ≠ (s.reg rs).toNat)
        ∧ cond 0x7#4 t.flags = decide ((s.reg rd).toNat < (s.reg rs).toNat)
        ∧ cond 0xF#4 t.flags = decide ((s.reg rs).toNat ≤ (s.reg rd).toNat)
        ∧ cond 0x3#4 t.flags = decide ((s.reg rd).toNat ≤ (s.reg rs).toNat)
        ∧ cond 0xB#4 t.flags = decide ((s.reg rs).toNat < (s.reg rd).toNat)
        ∧ cond 0x1#4 t.flags = decide ((s.reg rd).toInt < (s.reg rs).toInt)
        ∧ cond 0x9#4 t.flags = decide ((s.reg rs).toInt ≤ (s.reg rd).toInt)
        ∧ cond 0x2#4 t.flags = decide ((s.reg rd).toInt ≤ (s.reg rs).toInt)
        ∧ cond 0xA#4 t.flags = decide ((s.reg rs).toInt < (s.reg rd).toInt))

/-- CPZ of a memory operand (behind the Extend prefix CPCZ, which also subtracts the Carry flag and has a sticky Z), CPZ
Rd, which is CP Rd,#0, and CPCZ Rd behind the Extend prefix: the flags are those of the operand minus 0 (minus the Carry
flag) with B set, and nothing else changes. Constructors: the twelve cpzXxx, cpczReg, and cpSimm8 with a zero immediate.
The memory clauses are for states in which the DMA controller does nothing between the byte accesses; MemReadBigEndian
and MemWriteBigEndian say what it can do there. -/
def Obligations.CompareWithZero : Prop :=
  (∀ (z : Size) (m : UopMem) (s : State), Undisturbed s → Readable s.dev z (eaUop m s) →
      ∃ r t, exec (uopInstr .cpz z m) s = .next t ∧ IsDifference (valueAt z (eaUop m s) s) (BitVec.ofNat _ 0) (carryIn s) r
        ∧ After [] (differenceFlags s (valueAt z (eaUop m s) s) (BitVec.ofNat _ 0) (carryIn s) r (stickyZero s r)
            true s.flags) s t) ∧
    (∀ (i : Instr) (rd : Reg) (s : State),
      (i = .cpSimm8 rd 0#8 ∧ s.extPending = false) ∨ (i = .cpczReg rd ∧ s.extPending = true) →
      ∃ r t, exec i s = .next t ∧ IsDifference (s.reg rd) 0#32 (carryIn s) r
        ∧ After [] (differenceFlags s (s.reg rd) 0#32 (carryIn s) r (stickyZero s r) true s.flags) s t)

/-- INC and DEC of the datum at the effective address store it plus or minus 1 modulo 2^size at the same address; C is
the carry or borrow, Z, S and V are the result's, B says that the datum was 0, NOFLAGS leaves FLAGS alone, and nothing
else changes. That is for states in which the DMA controller does nothing between the byte accesses; in any state the
instruction is a read and then a write of that value plus or minus 1, which the DMA controller can come between (D20,
log entry 52). Constructors: the twelve incXxx and the twelve decXxx. That FLAGS is computed from what a store to FLAGS
left is a decision of the spec (D14, log entry 18). -/
def Obligations.IncrementDecrement : Prop :=
  (∀ (z : Size) (m : UopMem) (s : State), Undisturbed s → Memory.wf s.mem → Writable s.dev z (eaUop m s) →
      ∃ r t, exec (uopInstr .inc z m) s = .next t ∧ IsSum (valueAt z (eaUop m s) s) (BitVec.ofNat _ 1) 0 r
        ∧ Updated z (eaUop m s) r (sumFlags s (valueAt z (eaUop m s) s) (BitVec.ofNat _ 1) 0 r (isZero r)
            (isZero (valueAt z (eaUop m s) s))) s t) ∧
    (∀ (z : Size) (m : UopMem) (s : State), Undisturbed s → Memory.wf s.mem → Writable s.dev z (eaUop m s) →
      ∃ r t, exec (uopInstr .dec z m) s = .next t ∧ IsDifference (valueAt z (eaUop m s) s) (BitVec.ofNat _ 1) 0 r
        ∧ Updated z (eaUop m s) r (differenceFlags s (valueAt z (eaUop m s) s) (BitVec.ofNat _ 1) 0 r (isZero r)
            (isZero (valueAt z (eaUop m s) s))) s t) ∧
    (∀ (z : Size) (m : UopMem) (s t : State), exec (uopInstr .inc z m) s = .next t →
      ∃ v r u w, busRead z (eaUop m s) s = .next (v, u) ∧ IsSum v (BitVec.ofNat _ 1) 0 r
        ∧ busWrite z (eaUop m s) r u = .next w ∧ t = { w with flags := t.flags }) ∧
    (∀ (z : Size) (m : UopMem) (s t : State), exec (uopInstr .dec z m) s = .next t →
      ∃ v r u w, busRead z (eaUop m s) s = .next (v, u) ∧ IsDifference v (BitVec.ofNat _ 1) 0 r
        ∧ busWrite z (eaUop m s) r u = .next w ∧ t = { w with flags := t.flags })

/-- NEG Rd subtracts Rd from 0 with the flags of that subtraction and B saying that Rd was 0; COM Rd inverts every bit
of Rd, clears C and V, sets Z and S from the result and B saying that Rd was 0; nothing else changes; the words the spec
gives decode to them. -/
def Obligations.NegateAndComplement : Prop :=
  (∀ (rd : Reg) (s : State),
      ∃ t, exec (.neg rd) s = .next t ∧ IsDifference 0#32 (s.reg rd) 0 (t.reg rd)
        ∧ After [rd] (differenceFlags s 0#32 (s.reg rd) 0 (t.reg rd) (isZero (t.reg rd)) (isZero (s.reg rd)) s.flags)
            s t) ∧
    (∀ (rd : Reg) (s : State),
      ∃ t, exec (.com rd) s = .next t ∧ (∀ i < 32, (t.reg rd).getLsbD i = !(s.reg rd).getLsbD i)
        ∧ After [rd] (resultFlags s false (isZero (t.reg rd)) (isNegative (t.reg rd)) false (isZero (s.reg rd)) s.flags)
            s t) ∧
    (∀ rd : Reg, DecodesTo [0x455#12 ++ rd] (.neg rd) ∧ DecodesTo [0x454#12 ++ rd] (.com rd))

/-- MUL Rd,Rs writes the product modulo 2^32 to Rd, also when Rs is Rd; Z and S are the result's, V and B are cleared, C
stays, and nothing else changes; the word the spec gives decodes to it. -/
def Obligations.Multiplication : Prop :=
  ∀ (rd rs : Reg) (s : State),
    (∃ t, exec (.mul rd rs) s = .next t ∧ (t.reg rd).toNat = (s.reg rd).toNat * (s.reg rs).toNat % 2 ^ 32
      ∧ After [rd] (productFlags s (t.reg rd) false) s t) ∧
    DecodesTo [0xB2#8 ++ rs ++ rd] (.mul rd rs)

/-- UMUL and SMUL Rd,Rs with two different registers write the 64-bit unsigned or signed product, its low quad to Rd and
its high quad to Rs; Z and S are those of all 64 bits, V and B are cleared, C stays, and nothing else changes. With one
register for both the model refuses: the source does not define it and the spec decides so (D22). -/
def Obligations.WideMultiplication : Prop :=
  ∀ (rd rs : Reg) (s : State),
    (rd ≠ rs →
      (∃ t, exec (.umul rd rs) s = .next t ∧ (t.reg rs ++ t.reg rd).toNat = (s.reg rd).toNat * (s.reg rs).toNat
        ∧ After [rd, rs] (productFlags s (t.reg rs ++ t.reg rd) false) s t) ∧
      (∃ t, exec (.smul rd rs) s = .next t ∧ (t.reg rs ++ t.reg rd).toInt = (s.reg rd).toInt * (s.reg rs).toInt
        ∧ After [rd, rs] (productFlags s (t.reg rs ++ t.reg rd) false) s t)) ∧
    (rd = rs → exec (.umul rd rs) s = .refused .registerOverlap ∧ exec (.smul rd rs) s = .refused .registerOverlap)

/-- UDIV Rd,Rs with two different registers and no Extend prefix: with a nonzero divisor Rd becomes the quotient and Rs
the remainder, Z and S are the quotient's, V and B are cleared, C stays; with a zero divisor the Divide-by-Zero
exception is taken with the next instruction's address, or, while DIV0 is still set, nothing changes. One register for
both is refused (the spec's decision D22; the behaviour while DIV0 is set is its decision D25). That each write of SP,
as a result register or by the exception's pushes, is compared with SPOV, unsigned, is the spec's inference (R523, R53;
log entry 46). That the exception entry leaves the ATM count as it was (D26, log entry 29) and that no DMA access falls
inside it (D20, log entry 52) are decisions of the spec. -/
def Obligations.UnsignedDivision : Prop :=
  ∀ (rd rs : Reg) (target : Quad) (s : State), s.extPending = false →
    (rd ≠ rs → s.reg rs ≠ 0#32 →
      ∃ t, exec (.udiv rd rs) s = .next t
        ∧ (s.reg rd).toNat = (t.reg rd).toNat * (s.reg rs).toNat + (t.reg rs).toNat ∧ (t.reg rs).toNat < (s.reg rs).toNat
        ∧ After [rd, rs] (productFlags s (t.reg rd) false) s t
        ∧ Requested (writtenOnce [rd, rs] t) s t) ∧
    (rd ≠ rs → s.reg rs = 0#32 →
      (s.sysexcp.div0 = false → EntryReady s 8#32 target →
        ∃ t, exec (.udiv rd rs) s = .next t ∧ ExceptionTaken .divideByZero s t s.pc target
          ∧ Requested (pushesOfException s) s t) ∧
      (s.sysexcp.div0 = true → exec (.udiv rd rs) s = .next s)) ∧
    (rd = rs → exec (.udiv rd rs) s = .refused .registerOverlap)

/-- Behind the Extend prefix UDIV divides the register pair Rd, R(d+1 mod 16) by Rs: with a quotient below 2^32 Rd
becomes the quotient and the pair's second register the remainder; with a zero divisor or a larger quotient the
exception is taken with the next instruction's address, or, while its SYSEXCP bit is still set, nothing changes. Rs in
the pair is refused (D22, D25). That each write of SP, as a result register or by the exception's pushes, is compared
with SPOV, unsigned, is the spec's inference (R523, R53; log entry 46). That the exception entry leaves the ATM count as
it was (D26, log entry 29) and that no DMA access falls inside it (D20, log entry 52) are decisions of the spec. -/
def Obligations.LongDivision : Prop :=
  ∀ (rd rs : Reg) (target : Quad) (s : State), s.extPending = true →
    let lo : Reg := rd + 1#4
    let n : Nat := (s.reg rd).toNat * 2 ^ 32 + (s.reg lo).toNat
    (rs ≠ rd → rs ≠ lo → s.reg rs ≠ 0#32 → n < (s.reg rs).toNat * 2 ^ 32 →
      ∃ t, exec (.udiv rd rs) s = .next t
        ∧ n = (t.reg rd).toNat * (s.reg rs).toNat + (t.reg lo).toNat ∧ (t.reg lo).toNat < (s.reg rs).toNat
        ∧ After [rd, lo] (productFlags s (t.reg rd) false) s t
        ∧ Requested (writtenOnce [rd, lo] t) s t) ∧
    (rs ≠ rd → rs ≠ lo → s.reg rs = 0#32 →
      (s.sysexcp.div0 = false → EntryReady s 8#32 target →
        ∃ t, exec (.udiv rd rs) s = .next t ∧ ExceptionTaken .divideByZero s t s.pc target
          ∧ Requested (pushesOfException s) s t) ∧
      (s.sysexcp.div0 = true → exec (.udiv rd rs) s = .next s)) ∧
    (rs ≠ rd → rs ≠ lo → s.reg rs ≠ 0#32 → (s.reg rs).toNat * 2 ^ 32 ≤ n →
      (s.sysexcp.divovf = false → EntryReady s 8#32 target →
        ∃ t, exec (.udiv rd rs) s = .next t ∧ ExceptionTaken .divideOverflow s t s.pc target
          ∧ Requested (pushesOfException s) s t) ∧
      (s.sysexcp.divovf = true → exec (.udiv rd rs) s = .next s)) ∧
    (rs = rd ∨ rs = lo → exec (.udiv rd rs) s = .refused .registerOverlap)

/-- SDIV Rd,Rs with two different registers: with a nonzero divisor the quotient is truncated toward zero and the
remainder has the dividend's sign; 8000_0000H by FFFF_FFFFH gives 8000_0000H and remainder 0 with S and V set and raises
nothing; with a zero divisor the Divide-by-Zero exception is taken, or, while DIV0 is still set, nothing changes. One
register for both is refused (D22, D25). That each write of SP, as a result register or by the exception's pushes, is
compared with SPOV, unsigned, is the spec's inference (R523, R53; log entry 46). That the exception entry leaves the ATM
count as it was (D26, log entry 29) and that no DMA access falls inside it (D20, log entry 52) are decisions of the
spec. -/
def Obligations.SignedDivision : Prop :=
  ∀ (rd rs : Reg) (target : Quad) (s : State),
    (rd ≠ rs → s.reg rs ≠ 0#32 → ¬(s.reg rd = 0x80000000#32 ∧ s.reg rs = 0xFFFFFFFF#32) →
      ∃ t, exec (.sdiv rd rs) s = .next t
        ∧ (s.reg rd).toInt = (t.reg rd).toInt * (s.reg rs).toInt + (t.reg rs).toInt
        ∧ (t.reg rs).toInt.natAbs < (s.reg rs).toInt.natAbs
        ∧ (t.reg rs ≠ 0#32 → ((t.reg rs).toInt < 0 ↔ (s.reg rd).toInt < 0))
        ∧ After [rd, rs] (productFlags s (t.reg rd) false) s t
        ∧ Requested (writtenOnce [rd, rs] t) s t) ∧
    (rd ≠ rs → s.reg rd = 0x80000000#32 → s.reg rs = 0xFFFFFFFF#32 →
      ∃ t, exec (.sdiv rd rs) s = .next t ∧ t.reg rd = 0x80000000#32 ∧ t.reg rs = 0#32
        ∧ After [rd, rs] (resultFlags s (flagC s.flags) false true true false s.flags) s t
        ∧ Requested (writtenOnce [rd, rs] t) s t) ∧
    (rd ≠ rs → s.reg rs = 0#32 →
      (s.sysexcp.div0 = false → EntryReady s 8#32 target →
        ∃ t, exec (.sdiv rd rs) s = .next t ∧ ExceptionTaken .divideByZero s t s.pc target
          ∧ Requested (pushesOfException s) s t) ∧
      (s.sysexcp.div0 = true → exec (.sdiv rd rs) s = .next s)) ∧
    (rd = rs → exec (.sdiv rd rs) s = .refused .registerOverlap)

/-- AND, OR and XOR, in all 31 forms each: every bit of the destination becomes the operation of the two bits, Z and S
are the result's, V is cleared, B says that an operand was 0, C stays, NOFLAGS leaves FLAGS alone, and nothing else
changes. Constructors: every andXxx, orXxx and xorXxx. That B tests a register source cut to the size of a byte or word
destination, and that a store to FLAGS comes before the flag update, are decisions of the spec (D6, D14; log entries 19
and 18). The memory clauses are for states in which the DMA controller does nothing between the byte accesses;
MemReadBigEndian and MemWriteBigEndian say what it can do there. -/
def Obligations.BitwiseLogic : Prop :=
  ∀ op : Bop, op = .and ∨ op = .or ∨ op = .xor →
    (∀ (f : BopForm) (rd : Reg) (b : Quad) (s : State), RegOperands s f rd b →
      ∃ t, exec (bopInstr op f) s = .next t ∧ IsBitwise op (s.reg rd) b (t.reg rd)
        ∧ After [rd] (logicFlags s (s.reg rd) b (t.reg rd) s.flags) s t) ∧
    (∀ (f : BopForm) (z : Size) (ea : Quad) (b : BitVec (Size.bits z)) (s : State), MemOperands s f z ea b →
      Undisturbed s → Memory.wf s.mem → Writable s.dev z ea →
      ∃ r t, exec (bopInstr op f) s = .next t ∧ IsBitwise op (valueAt z ea s) b r
        ∧ Updated z ea r (logicFlags s (valueAt z ea s) b r) s t)

/-- TM and TCM, in all 31 forms each: Z and S are those of destination AND source, for TCM of the complemented
destination AND source, V is cleared, B says that an operand was 0, C stays, and nothing else changes. Constructors:
every tmXxx and tcmXxx. That B tests a register source cut to the size of a byte or word memory operand is a decision of
the spec (D6, log entry 19). The memory clauses are for states in which the DMA controller does nothing between the byte
accesses; MemReadBigEndian and MemWriteBigEndian say what it can do there. -/
def Obligations.BitTests : Prop :=
  ∀ op : Bop, op = .tm ∨ op = .tcm →
    (∀ (f : BopForm) (rd : Reg) (b : Quad) (s : State), RegOperands s f rd b →
      ∃ r t, exec (bopInstr op f) s = .next t ∧ IsBitwise op (s.reg rd) b r
        ∧ After [] (logicFlags s (s.reg rd) b r s.flags) s t) ∧
    (∀ (f : BopForm) (z : Size) (ea : Quad) (b : BitVec (Size.bits z)) (s : State), MemOperands s f z ea b →
      Undisturbed s → Readable s.dev z ea →
      ∃ r t, exec (bopInstr op f) s = .next t ∧ IsBitwise op (valueAt z ea s) b r
        ∧ After [] (logicFlags s (valueAt z ea s) b r s.flags) s t)

/-- The four shifts by an immediate count, and by bits [4:0] of a register without the Extend prefix: the result is the
rotated, zero-filled or sign-filled value, C the last bit out, Z and S the result's, V is C XOR S, B is cleared, and
nothing else changes. Count 0 leaves the value and writes C 0, a decision of the spec (D5). Constructors: rlImm, sllImm,
sraImm, srlImm, rlReg, sllReg, sraReg, srlReg. -/
def Obligations.Shifts : Prop :=
  ∀ (op : ShiftOp) (rd : Reg) (s : State),
    (∀ imm : BitVec 5,
      ∃ t c, exec (shiftImmInstr op rd imm) s = .next t ∧ IsShift op (s.reg rd) imm.toNat (t.reg rd) c
        ∧ After [rd] (shiftFlags s (t.reg rd) c) s t) ∧
    (∀ rs : Reg, s.extPending = false →
      ∃ t c, exec (shiftRegInstr op rd rs) s = .next t ∧ IsShift op (s.reg rd) ((s.reg rs).toNat % 32) (t.reg rd) c
        ∧ After [rd] (shiftFlags s (t.reg rd) c) s t)

/-- Behind the Extend prefix SLL, SRA and SRL by a register count give the plain result and flags and leave in the
source register the bits shifted out, with every other bit of it 0. One register for both is refused, a decision of the
spec (D22). At count 0 the C flag and the source register are written 0, another decision (D5, log entry 20). -/
def Obligations.ExtendedShifts : Prop :=
  ∀ (op : ShiftOp) (rd rs : Reg) (s : State), op ≠ .rl → s.extPending = true →
    (rd ≠ rs →
      ∃ t c, exec (shiftRegInstr op rd rs) s = .next t ∧ IsShift op (s.reg rd) ((s.reg rs).toNat % 32) (t.reg rd) c
        ∧ IsShiftedOut op (s.reg rd) ((s.reg rs).toNat % 32) (t.reg rs)
        ∧ After [rd, rs] (shiftFlags s (t.reg rd) c) s t) ∧
    (rd = rs → exec (shiftRegInstr op rd rs) s = .refused .registerOverlap)

/-- LD of a register from memory, in all 35 forms: Rd becomes the value at the effective address, zero- or sign-extended
in its kind, a postincremented pointer is raised by the size after the read, B says that the value is 0, no other flag
and nothing else changes. A postincrement load into its own pointer is refused: the source does not say which write
survives and the spec decides so (D23). Constructors: ldPc, ldAddr16, ldAddr32, ldMem, ldPostInc, ldInd, ldFp and the
same with UB, UW, SB, SW. The memory clauses are for states in which the DMA controller does nothing between the byte
accesses; MemReadBigEndian and MemWriteBigEndian say what it can do there. -/
def Obligations.LoadFromMemory : Prop :=
  ∀ (k : LoadKind) (rd : Reg) (m : LoadMem) (s : State),
    let v := valueAt (kindSize k) (eaLoad m s) s
    let flags := resultFlags s (flagC s.flags) (flagZ s.flags) (flagS s.flags) (flagV s.flags) (isZero v) s.flags
    (m ≠ .postInc rd → Undisturbed s → Readable s.dev (kindSize k) (eaLoad m s) →
      ∃ t, exec (loadInstr k rd m) s = .next t ∧ Extended k v (t.reg rd) ∧
        match m with
        | .postInc rs => t.reg rs = s.reg rs + sizeQuad (kindSize k) ∧ After [rd, rs] flags s t
        | _ => After [rd] flags s t) ∧
    (m = .postInc rd → exec (loadInstr k rd m) s = .refused .pointerOverlap)

/-- LD Rd with an immediate of 8 or 17 bits loads it sign-extended, of 32 bits as given, LD Rd,Rs copies, LD cc,Rd loads
1 or 0 by the condition, LDES Rd loads FFFF_FFFFH or 0 by S; no flag and nothing else changes, and the words the spec
gives for each decode to it. -/
def Obligations.LoadOfValue : Prop :=
  ∀ (rd rs : Reg) (i8 : BitVec 8) (i17 : BitVec 17) (i32 : BitVec 32) (cc : CC) (s : State),
    (∃ t, exec (.ldSimm8 rd i8) s = .next t ∧ (t.reg rd).toInt = i8.toInt ∧ After [rd] s.flags s t) ∧
    (∃ t, exec (.ldSimm17 rd i17) s = .next t ∧ (t.reg rd).toInt = i17.toInt ∧ After [rd] s.flags s t) ∧
    (∃ t, exec (.ldImm32 rd i32) s = .next t ∧ t.reg rd = i32 ∧ After [rd] s.flags s t) ∧
    (∃ t, exec (.ldReg rd rs) s = .next t ∧ t.reg rd = s.reg rs ∧ After [rd] s.flags s t) ∧
    (∃ t, exec (.ldCc cc rd) s = .next t ∧ (t.reg rd).toNat = (if cond cc s.flags then 1 else 0)
      ∧ After [rd] s.flags s t) ∧
    (∃ t, exec (.ldes rd) s = .next t ∧ (t.reg rd).toInt = (if flagS s.flags then -1 else 0)
      ∧ After [rd] s.flags s t) ∧
    DecodesTo [0x3#4 ++ rd ++ i8] (.ldSimm8 rd i8) ∧
    DecodesTo [0x450#12 ++ rd, i17.extractLsb' 0 16] (.ldSimm17 rd (0#1 ++ i17.extractLsb' 0 16)) ∧
    DecodesTo [0x451#12 ++ rd, i17.extractLsb' 0 16] (.ldSimm17 rd (1#1 ++ i17.extractLsb' 0 16)) ∧
    DecodesTo [0x452#12 ++ rd, i32.extractLsb' 16 16, i32.extractLsb' 0 16] (.ldImm32 rd i32) ∧
    DecodesTo [0x44#8 ++ rs ++ rd] (.ldReg rd rs) ∧ DecodesTo [0x01#8 ++ cc ++ rd] (.ldCc cc rd) ∧
    DecodesTo [0x453#12 ++ rd] (.ldes rd)

/-- LEA Rd loads the sum modulo 2^32 of a signed offset and a register, the PC of the next instruction, or R14; it
accesses no memory, changes no flag and nothing else, and the words the spec gives for each form, with either value of
their don't-care bit, decode to it. -/
def Obligations.LoadOfAddress : Prop :=
  ∀ (rd rs : Reg) (o14 : BitVec 14) (o6 : BitVec 6) (x : BitVec 1) (s : State),
    (∃ t, exec (.leaInd rd rs o14) s = .next t ∧ t.reg rd = BitVec.ofInt 32 ((s.reg rs).toInt + o14.toInt)
      ∧ After [rd] s.flags s t) ∧
    (∃ t, exec (.leaPc rd o14) s = .next t ∧ t.reg rd = BitVec.ofInt 32 (s.pc.toInt + o14.toInt)
      ∧ After [rd] s.flags s t) ∧
    (∃ t, exec (.leaFp rd o6) s = .next t ∧ t.reg rd = BitVec.ofInt 32 ((s.reg 14#4).toInt + o6.toInt)
      ∧ After [rd] s.flags s t) ∧
    DecodesTo [0x48#8 ++ rs ++ rd, 1#1 ++ x ++ o14] (.leaInd rd rs o14) ∧
    DecodesTo [0x002#12 ++ rd, 1#1 ++ x ++ o14] (.leaPc rd o14) ∧
    DecodesTo [0x4#4 ++ 0b11#2 ++ o6 ++ rd] (.leaFp rd o6)

/-- EXT.UB, EXT.UW, EXT.SB and EXT.SW load Rd with the low byte or word of Rs, zero- or sign-extended; Z and S are the
32-bit result's, B is cleared, C and V stay, and nothing else changes; the words the spec gives decode to them. -/
def Obligations.ExtendRegister : Prop :=
  ∀ (k : LoadKind) (rd rs : Reg) (i : Instr) (s : State), extInstr k rd rs = some i →
    (∃ t, exec i s = .next t ∧ Extended k ((s.reg rs).setWidth (Size.bits (kindSize k))) (t.reg rd)
      ∧ After [rd] (resultFlags s (flagC s.flags) (isZero (t.reg rd)) (isNegative (t.reg rd)) (flagV s.flags) false
          s.flags) s t) ∧
    DecodesTo [(match k with | .ub => 0x40#8 | .uw => 0x41#8 | .sb => 0x42#8 | _ => 0x43#8) ++ rs ++ rd] i

/-- LD of a memory destination from a register, in all 21 forms: the register, cut to the size, is stored big-endian at
the effective address, a predecremented pointer is lowered before the store and a postincremented one raised after it,
and no flag and nothing else changes. A predecremented pointer that is also the source is stored after the decrement, a
decision of the spec (D24). Constructors: ldToAddr16, ldToAddr32, ldToMem, ldToPre, ldToPost, ldToInd, ldToFp and the
same with W and B. This is for states in which the DMA controller does nothing between the byte accesses;
MemReadBigEndian and MemWriteBigEndian say what it can do there. In any state the bytes of a predecrement store land one
by one, each after a turn of the DMA controller, the low-order byte first, as R99 says for PUSH, which it is with R15;
through another pointer that order is the model's choice (log entry 52). -/
def Obligations.StoreOfRegister : Prop :=
  (∀ (z : Size) (m : StoreMem) (rs : Reg) (s : State), Undisturbed s → Memory.wf s.mem →
      Writable s.dev z (eaStore m (storeBefore z m s)) →
      let v : Quad := if m = .preDec rs then s.reg rs - sizeQuad z else s.reg rs
      ∃ t, exec (storeInstr z m rs) s = .next t ∧ StoredTo z m (v.setWidth (Size.bits z)) s t) ∧
    (∀ (z : Size) (rd rs : Reg) (s t : State), Memory.wf s.mem → exec (storeInstr z (.preDec rd) rs) s = .next t →
      let u := s.writeReg rd (s.reg rd - sizeQuad z)
      StoredBetween (datumBytes z (u.reg rd) ((u.reg rs).setWidth (Size.bits z))).reverse u t)

/-- LD of an immediate to (Rd), (--Rd) or (Rd++): the immediate, #simm16 sign-extended to a quad and the others in their
own size, is stored big-endian at the pointer, lowered before or raised after the store by the size, and no flag and
nothing else changes. Constructors: ldMemImm32, ldPreImm32, ldPostImm32, ldMemSimm16, ldPreSimm16, ldPostSimm16,
ldWMemImm16, ldWPreImm16, ldWPostImm16, ldBMemImm8, ldBPreImm8, ldBPostImm8. This is for states in which the DMA
controller does nothing between the byte accesses; MemReadBigEndian and MemWriteBigEndian say what it can do there. -/
def Obligations.StoreOfImmediate : Prop :=
  ∀ (m : PtrMode) (rd : Reg) (val : StoreVal) (z : Size) (v : BitVec (Size.bits z)) (s : State), StoreOperand val z v →
    Undisturbed s → Memory.wf s.mem → Writable s.dev z (eaStore (destination m rd) (storeBefore z (destination m rd) s)) →
    ∃ t, exec (storeImmInstr m rd val) s = .next t ∧ StoredTo z (destination m rd) v s t

/-- CLR of a byte, word or quad at the effective address stores 0 there and changes no flag and nothing else.
Constructors: the twelve clrXxx. This is for states in which the DMA controller does nothing between the byte accesses;
MemReadBigEndian and MemWriteBigEndian say what it can do there. -/
def Obligations.ClearOfMemory : Prop :=
  ∀ (z : Size) (m : UopMem) (s : State), Undisturbed s → Memory.wf s.mem → Writable s.dev z (eaUop m s) →
    ∃ t, exec (uopInstr .clr z m) s = .next t ∧ Stored z (eaUop m s) (BitVec.ofNat _ 0) s t

/-- PUSH.B #imm8 pushes the byte, PUSH.W #simm8 its 16-bit and PUSH #simm8 its 32-bit sign extension, PUSHF the word
that is 00H above FLAGS: SP is lowered by the size, the datum stored big-endian at the new SP, and no flag and nothing
else changes; the words the spec gives decode to them. This is for states in which the DMA controller does nothing
between the byte accesses; MemReadBigEndian and MemWriteBigEndian say what it can do there. -/
def Obligations.PushOfImmediate : Prop :=
  ∀ (imm : BitVec 8) (s : State), Undisturbed s → Memory.wf s.mem →
    (Writable s.dev .byte (s.reg spReg - 1#32) → ∃ t, exec (.pushBImm8 imm) s = .next t ∧ Pushed .byte imm s t) ∧
    (Writable s.dev .word (s.reg spReg - 2#32) →
      ∃ t, exec (.pushWSimm8 imm) s = .next t ∧ Pushed .word (BitVec.ofInt 16 imm.toInt) s t) ∧
    (Writable s.dev .quad (s.reg spReg - 4#32) →
      ∃ t, exec (.pushSimm8 imm) s = .next t ∧ Pushed .quad (BitVec.ofInt 32 imm.toInt) s t) ∧
    (Writable s.dev .word (s.reg spReg - 2#32) →
      ∃ t, exec .pushf s = .next t ∧ Pushed .word (0x00#8 ++ s.flags) s t) ∧
    DecodesTo [0x0A#8 ++ imm] (.pushBImm8 imm) ∧ DecodesTo [0x0C#8 ++ imm] (.pushWSimm8 imm) ∧
    DecodesTo [0x0D#8 ++ imm] (.pushSimm8 imm) ∧ DecodesTo [0x0002#16] .pushf

/-- POP, POP.UB, POP.UW, POP.SB and POP.SW of a register other than R15 load it with the value at SP, zero- or
sign-extended, raise SP by the size, set B when the value is 0, and change nothing else. POP of R15 is refused, a
decision of the spec (D23). This is for states in which the DMA controller does nothing between the byte accesses;
MemReadBigEndian and MemWriteBigEndian say what it can do there. -/
def Obligations.PopOfRegister : Prop :=
  ∀ (k : LoadKind) (rd : Reg) (s : State),
    let v := valueAt (kindSize k) (s.reg spReg) s
    (rd ≠ spReg → Undisturbed s → Readable s.dev (kindSize k) (s.reg spReg) →
      ∃ t, exec (popInstr k rd) s = .next t ∧ Extended k v (t.reg rd)
        ∧ t.reg spReg = s.reg spReg + sizeQuad (kindSize k)
        ∧ After [rd, spReg] (resultFlags s (flagC s.flags) (flagZ s.flags) (flagS s.flags) (flagV s.flags) (isZero v)
            s.flags) s t) ∧
    (rd = spReg → exec (popInstr k rd) s = .refused .pointerOverlap)

/-- POPF loads FLAGS with the byte at SP + 1, whatever the NOFLAGS latch, raises SP by 2, does not read the byte at SP,
and changes nothing else; 0003H decodes to it. This is for states in which the DMA controller does nothing between the
byte accesses; MemReadBigEndian and MemWriteBigEndian say what it can do there. -/
def Obligations.PopOfFlags : Prop :=
  ∀ s : State, Undisturbed s → Readable s.dev .byte (s.reg spReg + 1#32) →
    (∃ t, exec .popf s = .next t ∧ t.reg spReg = s.reg spReg + 2#32
      ∧ After [spReg] (byteAt (s.reg spReg + 1#32) s) s t) ∧
    DecodesTo [0x0003#16] .popf

/-- PUSHMLO and PUSHMHI with any mask, where the stack below SP is RAM or external memory: the j-th selected register
from the top stands as a big-endian quad at SP - 4(j + 1), SP is lowered by four for each, and no flag and nothing else
changes. R15 in the list is stored after its own decrement, a decision of the spec (D24). That every write of SP is
compared with SPOV, unsigned, is the spec's inference (R523, R53; log entry 46). This is for states in which the DMA
controller does nothing between the byte accesses; MemReadBigEndian and MemWriteBigEndian say what it can do there. -/
def Obligations.PushOfMany : Prop :=
  ∀ (high : Bool) (mask : BitVec 8) (s : State), Undisturbed s → Memory.wf s.mem →
    let rs := pushedRegs high mask
    let n := 4 * rs.length
    PlainBytes s.dev (s.reg spReg - BitVec.ofNat 32 n) n →
    ∃ t, exec (if high then .pushmHi mask else .pushmLo mask) s = .next t
      ∧ t.reg spReg = s.reg spReg - BitVec.ofNat 32 n
      ∧ (∀ (j : Nat) (r : Reg), rs[j]? = some r →
          valueAt .quad (s.reg spReg - BitVec.ofNat 32 (4 * (j + 1))) t
            = if r = spReg then s.reg spReg - BitVec.ofNat 32 (4 * (j + 1)) else s.reg r)
      ∧ (∀ a, Outside s.dev (s.reg spReg - BitVec.ofNat 32 n) n a → byteAt a t = byteAt a s)
      ∧ RegsSameBut [spReg] s t ∧ t.flags = s.flags ∧ t.pc = s.pc ∧ SameControl s t ∧ SameLatches s t ∧ SameMachine s t
      ∧ Requested ((List.range rs.length).map fun j => s.reg spReg - BitVec.ofNat 32 (4 * (j + 1))) s t

/-- POPMLO and POPMHI with any mask that does not select R15: the j-th selected register becomes the quad at SP + 4j, SP
is raised by four for each, B says that the last value popped is 0 and stays for an empty mask, and nothing else
changes. A mask that selects R15 is refused, a decision of the spec (D23). That B stays for an empty mask (R374) and
that every write of SP is compared with SPOV, unsigned (R523, R53; log entry 46), are the spec's own inferences. This is
for states in which the DMA controller does nothing between the byte accesses; MemReadBigEndian and MemWriteBigEndian
say what it can do there. -/
def Obligations.PopOfMany : Prop :=
  ∀ (high : Bool) (mask : BitVec 8) (s : State),
    let rs := poppedRegs high mask
    (spReg ∉ rs → Undisturbed s → (∀ j < rs.length, Readable s.dev .quad (s.reg spReg + BitVec.ofNat 32 (4 * j))) →
      ∃ t, exec (if high then .popmHi mask else .popmLo mask) s = .next t
        ∧ (∀ (j : Nat) (r : Reg), rs[j]? = some r → t.reg r = valueAt .quad (s.reg spReg + BitVec.ofNat 32 (4 * j)) s)
        ∧ t.reg spReg = s.reg spReg + BitVec.ofNat 32 (4 * rs.length)
        ∧ After (spReg :: rs)
            (if rs = [] then s.flags
             else resultFlags s (flagC s.flags) (flagZ s.flags) (flagS s.flags) (flagV s.flags)
              (isZero (valueAt .quad (s.reg spReg + BitVec.ofNat 32 (4 * (rs.length - 1))) s)) s.flags) s t
        ∧ Requested ((List.range rs.length).map fun j => s.reg spReg + BitVec.ofNat 32 (4 * (j + 1))) s t) ∧
    (spReg ∈ rs → exec (if high then .popmHi mask else .popmLo mask) s = .refused .pointerOverlap)

/-- LINK pushes R14, copies the new SP to R14 and lowers SP by its unsigned immediate, asking for a Stack Overflow when
SP was below SPOV at either write; UNLINK loads SP from R14, R14 from the quad there, and raises SP by 4; no flag and
nothing else changes; the words the spec gives decode to them. That each write of SP is compared with SPOV, unsigned, is
the spec's inference (R380, R523, R53; log entry 46). This is for states in which the DMA controller does nothing
between the byte accesses; MemReadBigEndian and MemWriteBigEndian say what it can do there. -/
def Obligations.LinkAndUnlink : Prop :=
  ∀ (imm : BitVec 8) (s : State), Undisturbed s →
    (Memory.wf s.mem → Writable s.dev .quad (s.reg spReg - 4#32) →
      ∃ u t, exec (.link imm) s = .next t ∧ Stored .quad (s.reg spReg - 4#32) (s.reg 14#4) s u
        ∧ t.reg 14#4 = s.reg spReg - 4#32 ∧ t.reg spReg = s.reg spReg - 4#32 - BitVec.ofNat 32 imm.toNat
        ∧ RegsSameBut [14#4, spReg] s t ∧ t = { u with regs := t.regs, spovReq := t.spovReq }
        ∧ t.spovReq = (s.spovReq || decide (s.reg spReg - 4#32 < s.spov)
            || decide (s.reg spReg - 4#32 - BitVec.ofNat 32 imm.toNat < u.spov))) ∧
    (Readable s.dev .quad (s.reg 14#4) →
      ∃ t, exec .unlink s = .next t ∧ t.reg 14#4 = valueAt .quad (s.reg 14#4) s
        ∧ t.reg spReg = s.reg 14#4 + 4#32 ∧ After [14#4, spReg] s.flags s t
        ∧ Requested [s.reg 14#4, s.reg 14#4 + 4#32] s t) ∧
    DecodesTo [0x08#8 ++ imm] (.link imm) ∧ DecodesTo [0x0001#16] .unlink

/-- A relative jump goes to the next instruction's address plus twice the signed offset, JP (Rs) and JPA to the register
or immediate with bit 0 cleared, and JP cc jumps when its condition holds and goes on otherwise; nothing but the PC
changes; the words the spec gives decode to them. -/
def Obligations.Jumps : Prop :=
  ∀ (rs : Reg) (r12 : BitVec 12) (r24 : BitVec 24) (r8 : BitVec 8) (r16 : BitVec 16) (imm : Quad) (cc : CC) (s : State),
    (∃ t, exec (.jpRel12 r12) s = .next t ∧ JumpedTo (s.pc + BitVec.ofInt 32 (2 * r12.toInt)) s t) ∧
    (∃ t, exec (.jpRel24 r24) s = .next t ∧ JumpedTo (s.pc + BitVec.ofInt 32 (2 * r24.toInt)) s t) ∧
    (∃ t, exec (.jpInd rs) s = .next t ∧ JumpedTo (BitVec.ofNat 32 (2 * ((s.reg rs).toNat / 2))) s t) ∧
    (∃ t, exec (.jpa imm) s = .next t ∧ JumpedTo (BitVec.ofNat 32 (2 * (imm.toNat / 2))) s t) ∧
    (∃ t, exec (.jpCcRel8 cc r8) s = .next t
      ∧ JumpedTo (if cond cc s.flags then s.pc + BitVec.ofInt 32 (2 * r8.toInt) else s.pc) s t) ∧
    (∃ t, exec (.jpCcRel16 cc r16) s = .next t
      ∧ JumpedTo (if cond cc s.flags then s.pc + BitVec.ofInt 32 (2 * r16.toInt) else s.pc) s t) ∧
    DecodesTo [0xC#4 ++ r12] (.jpRel12 r12) ∧
    DecodesTo [0xF0#8 ++ r24.extractLsb' 16 8, r24.extractLsb' 0 16] (.jpRel24 r24) ∧
    DecodesTo [0xF20#12 ++ rs] (.jpInd rs) ∧
    DecodesTo [0xF230#16, imm.extractLsb' 16 16, imm.extractLsb' 0 16] (.jpa imm) ∧
    DecodesTo [0xE#4 ++ cc ++ r8] (.jpCcRel8 cc r8) ∧ DecodesTo [0xF22#12 ++ cc, r16] (.jpCcRel16 cc r16)

/-- CALL and CALLA push all 32 bits of the next instruction's address and then jump, a relative CALL by twice its signed
offset, CALL (Rs) and CALLA to the register or immediate with bit 0 cleared; no flag and nothing else changes. CALL
(R15) goes to SP after its decrement, a decision of the spec (D24). This is for states in which the DMA controller does
nothing between the byte accesses; MemReadBigEndian and MemWriteBigEndian say what it can do there. -/
def Obligations.Calls : Prop :=
  ∀ (rs : Reg) (r12 : BitVec 12) (r24 : BitVec 24) (imm : Quad) (s : State), Undisturbed s → Memory.wf s.mem →
    Writable s.dev .quad (s.reg spReg - 4#32) →
    ∃ u d12 d24 di da, Pushed .quad s.pc s u ∧
      exec (.callRel12 r12) s = .next { u with pc := s.pc + BitVec.ofInt 32 (2 * r12.toInt), dirty := d12 } ∧
      exec (.callRel24 r24) s = .next { u with pc := s.pc + BitVec.ofInt 32 (2 * r24.toInt), dirty := d24 } ∧
      exec (.callInd rs) s =
        .next { u with
          pc := BitVec.ofNat 32 (2 * ((if rs = spReg then s.reg spReg - 4#32 else s.reg rs).toNat / 2))
          dirty := di } ∧
      exec (.calla imm) s = .next { u with pc := BitVec.ofNat 32 (2 * (imm.toNat / 2)), dirty := da }

/-- RET loads the PC with the quad at SP and raises SP by 4. IRET with CIRQE 0, nothing pending, or an ATM window open
loads the PC from the quad at SP and FLAGS from the byte at SP + 5, whatever the NOFLAGS latch, and raises SP by 6. IRET
with CIRQE 1, a request pending and no window clears IRQE and goes to the handler in the request's vector quad; the
stack stays and the request is accepted. An odd PC is a fault. The ATM clause and the odd PC are decisions of the spec
(D26, D12; log entries 29 and 10), and so is that the accepted request is the head of the presented list and leaves it
(D32, log entry 38). That IRET compares SP with SPOV at both of its writes, unsigned, is the spec's inference (R523,
R53; log entry 46). This is for states in which the DMA controller does nothing between the byte accesses;
MemReadBigEndian and MemWriteBigEndian say what it can do there. -/
def Obligations.Returns : Prop :=
  ∀ s : State, Undisturbed s →
    (Readable s.dev .quad (s.reg spReg) →
      ((valueAt .quad (s.reg spReg) s).getLsbD 0 = false →
        ∃ t, exec .ret s = .next t ∧ t.pc = valueAt .quad (s.reg spReg) s ∧ t.reg spReg = s.reg spReg + 4#32
          ∧ t.flags = s.flags ∧ OnlyRegs [spReg] s t) ∧
      ((valueAt .quad (s.reg spReg) s).getLsbD 0 = true → exec .ret s = .fault .oddPc)) ∧
    (flagCirqe s.flags = false ∨ s.pending = [] ∨ s.atmCount ≠ 0 →
      Readable s.dev .quad (s.reg spReg) → Readable s.dev .byte (s.reg spReg + 5#32) →
      ((valueAt .quad (s.reg spReg) s).getLsbD 0 = false →
        ∃ t, exec .iret s = .next t ∧ t.pc = valueAt .quad (s.reg spReg) s ∧ t.reg spReg = s.reg spReg + 6#32
          ∧ t.flags = byteAt (s.reg spReg + 5#32) s ∧ OnlyRegs [spReg] s t
          ∧ Requested [s.reg spReg + 4#32, s.reg spReg + 6#32] s t) ∧
      ((valueAt .quad (s.reg spReg) s).getLsbD 0 = true → exec .iret s = .fault .oddPc)) ∧
    (∀ (q : IrqRequest) (qs : List IrqRequest), flagCirqe s.flags = true → s.pending = q :: qs → s.atmCount = 0 →
      Readable s.dev .quad q.vectorAddr → (∀ k < 4, locate s.dev (q.vectorAddr + BitVec.ofNat 32 k) ≠ .flags) →
      ((valueAt .quad q.vectorAddr s).getLsbD 0 = false →
        ∃ t, exec .iret s = .next t ∧ t.pc = valueAt .quad q.vectorAddr s
          ∧ t.flags = flagsByte (flagC s.flags) (flagZ s.flags) (flagS s.flags) (flagV s.flags) (flagB s.flags)
              (flagF1 s.flags) (flagCirqe s.flags) false
          ∧ OnlyRegs [] { s with pending := qs } t) ∧
      ((valueAt .quad q.vectorAddr s).getLsbD 0 = true → exec .iret s = .fault .oddPc))

/-- DJNZ Rd lowers Rd by 1 modulo 2^32 with the flags of that subtraction and B saying that Rd was 0, and, when the new
value is not 0, whatever the flags, goes to the next instruction's address minus 32 plus twice its unsigned offset;
nothing else changes; the word the spec gives decodes to it. -/
def Obligations.DecrementAndJump : Prop :=
  ∀ (rd : Reg) (rel : BitVec 4) (s : State),
    (∃ t, exec (.djnz rd rel) s = .next t ∧ IsDifference (s.reg rd) 1#32 0 (t.reg rd)
      ∧ t.flags = differenceFlags s (s.reg rd) 1#32 0 (t.reg rd) (isZero (t.reg rd)) (isZero (s.reg rd)) s.flags
      ∧ t.pc = (if t.reg rd = 0#32 then s.pc else s.pc + BitVec.ofInt 32 (2 * (rel.toNat : Int) - 32))
      ∧ OnlyRegs [rd] s t) ∧
    DecodesTo [0xFD#8 ++ rel ++ rd] (.djnz rd rel)

/-- TRAP #vector8, where its frame goes to RAM or external memory away from the vector, pushes FLAGS under a pad byte of
0 and then the next instruction's address, and loads the PC from the quad at four times the vector; FLAGS, SYSEXCP and
everything else stay; the word the spec gives decodes to it. That every write of SP is compared with SPOV, unsigned, is
the spec's inference (R523, R53; log entry 46). This is for states in which the DMA controller does nothing between the
byte accesses; MemReadBigEndian and MemWriteBigEndian say what it can do there. -/
def Obligations.SoftwareTrap : Prop :=
  ∀ (vec : BitVec 8) (target : Quad) (s : State), Undisturbed s → EntryReady s (BitVec.ofNat 32 (4 * vec.toNat)) target →
    (∃ t, exec (.trap vec) s = .next t ∧ Entered s t s.pc target ∧ t.flags = s.flags ∧ t.sysexcp = s.sysexcp
      ∧ SameLatches s t ∧ SameMachine s t ∧ Requested (pushesOfException s) s t) ∧
    DecodesTo [0xFE#8 ++ vec] (.trap vec)

/-- ILL, and BRK where OCD breaks are disabled, take the Illegal Instruction exception with their own address, the
prefix latches cleared; while the ILL bit is still set they go to the handler with the same changes of CIRQE and IRQE
but push nothing, a decision of the spec (D30). BRK where breaks are enabled enters the debugger break with the PC at
the BRK. That every write of SP is compared with SPOV, unsigned, is the spec's inference (R523, R53; log entry 46). That
the exception entry leaves the ATM count as it was (D26, log entry 29) and that no DMA access falls inside it (D20, log
entry 52) are decisions of the spec. -/
def Obligations.IllegalInstruction : Prop :=
  ∀ (i : Instr) (target : Quad) (s : State),
    (i = .ill ∨ (i = .brk ∧ s.dev.ocdBreaks = false) →
      (s.sysexcp.ill = false → EntryReady s 8#32 target →
        ∃ t, exec i s = .next t ∧ ExceptionTaken .illegalInstruction s t (s.pc - 2#32) target
          ∧ t.extPending = false ∧ t.noflagsPending = false ∧ Requested (pushesOfException s) s t) ∧
      (s.sysexcp.ill = true → Readable s.dev .quad 8#32 → valueAt .quad 8#32 s = target → target.getLsbD 0 = false →
        ∃ t, exec i s = .next t ∧ t.pc = target ∧ t.flags = exceptionFlags s
          ∧ OnlyRegs [] { s with extPending := false, noflagsPending := false } t)) ∧
    (s.dev.ocdBreaks = true → s.extPending = false →
      exec .brk s = .next { s with runMode := .debugBreak, pc := s.pc - 2#32 })

/-- EI sets and DI clears IRQE, whatever the NOFLAGS latch, HALT and STOP enter their mode, NOP does nothing, WDT
enables the Watchdog Timer and reloads it, ATM sets the count to 3, NOFLAGS and the Extend prefix set their latch;
nothing else changes. That NOFLAGS does not reach EI and DI (D27, log entry 28) is a decision of the spec; the reload of
0 on a device without the timer is log entry 41. -/
def Obligations.CpuControl : Prop :=
  ∀ s : State,
    exec .ei s = .next { s with flags := s.flags ||| 0x01#8 } ∧ exec .di s = .next { s with flags := s.flags &&& 0xFE#8 }
    ∧ exec .halt s = .next { s with runMode := .halt } ∧ exec .stop s = .next { s with runMode := .stop }
    ∧ exec .nop s = .next s
    ∧ exec .wdt s = .next { s with wdtEnabled := true, wdtCounter := s.dev.wdtPeriod.getD 0 }
    ∧ exec .atm s = .next { s with atmCount := 3 } ∧ exec .noflags s = .next { s with noflagsPending := true }
    ∧ exec .extend s = .next { s with extPending := true }

/-- At a boundary with IRQE 1, or a nonmaskable request, no ATM window and no prefix latch, and in Halt or Stop mode
whatever the window and latches where the device lets an interrupt end the mode, the step accepts the highest request
presented: it pushes the PC and FLAGS, copies IRQE to CIRQE, clears IRQE, goes to the handler in the request's vector
quad, and the CPU runs; nothing else changes. Each of the six writes of SP is compared with SPOV; where none is below it
the step ends there, and otherwise with the stack check of finishStep. The frame goes to RAM or external memory away
from the vector. Decisions of the spec: nonmaskable requests (D31, log entry 37), no acceptance behind a prefix (D8, log
entry 27), the wake from Halt and Stop (D28, log entry 39), the removal of the head of the list (D32, log entry 38), no
DMA access inside the entry (D19, D20; log entry 52), acceptance at the boundary with IRQE as it stands there and no
delay after EI (D33, log entry 36), and ahead of a PC above PCOV or an illegal word at the PC (D34, R533; log entry 36);
the unsigned comparison at every write is its inference (R523, R53; log entry 46). -/
def Obligations.InterruptEntry : Prop :=
  ∀ (q : IrqRequest) (qs : List IrqRequest) (target : Quad) (s : State), s.pending = q :: qs →
    flagIrqe s.flags = true ∨ q.nonmaskable = true →
    (s.runMode = .running ∧ s.atmCount = 0 ∧ s.extPending = false ∧ s.noflagsPending = false)
      ∨ (s.runMode = .halt ∧ s.dev.haltWake = .enter) ∨ (s.runMode = .stop ∧ s.dev.stopWake = .enter) →
    EntryReady s q.vectorAddr target →
    ∃ t, step s = finishStep t ∧ (StackAbove s 6 → s.spovReq = false → step s = .next t)
      ∧ Entered s t s.pc target ∧ t.flags = interruptFlags s ∧ t.sysexcp = s.sysexcp ∧ t.pending = qs
      ∧ t.runMode = .running ∧ t.atmCount = 0 ∧ SameLatches s t ∧ t.dev = s.dev
      ∧ t.wdtEnabled = s.wdtEnabled ∧ t.wdtCounter = s.wdtCounter
      ∧ t.dmaPlan = s.dmaPlan ∧ t.dmaSeen = s.dmaSeen ∧ Requested (pushesOfInterrupt s) s t

/-- In Halt or Stop mode a step with no request presented, or with IRQE 0 and the highest one maskable, changes nothing,
and neither does one whose device lets no interrupt end the mode; where the device says that a request resets it, an
acceptable request does. Every step in the debugger break changes nothing. That a masked request does not wake the CPU
and that an acceptable one does are the spec's default (D28, log entry 39), the two other rules are the model's values
of HALT_STOP_MODEL (log entry 39), and that the break lasts is a decision of the spec (D29, log entry 40). -/
def Obligations.WaitingModes : Prop :=
  ∀ s : State,
    ((s.runMode = .halt ∨ s.runMode = .stop) →
      (s.pending = [] ∨ ∃ q qs, s.pending = q :: qs ∧ flagIrqe s.flags = false ∧ q.nonmaskable = false) → Stuck s) ∧
    ((s.runMode = .halt ∧ s.dev.haltWake = .stay) ∨ (s.runMode = .stop ∧ s.dev.stopWake = .stay) → Stuck s) ∧
    ((s.runMode = .halt ∧ s.dev.haltWake = .reset) ∨ (s.runMode = .stop ∧ s.dev.stopWake = .reset) →
      (∃ q qs, s.pending = q :: qs ∧ (flagIrqe s.flags = true ∨ q.nonmaskable = true)) → step s = resetMachine s) ∧
    (s.runMode = .debugBreak → Stuck s)

/-- When an instruction answers a next state, a pending Stack Overflow request is never withdrawn; an instruction that
writes R15 once leaves a request exactly when there was one or the new R15 is below SPOV, unsigned, with SPOV as it is
when R15 is written, for a postincremented store after the store (where the DMA controller does nothing between the
accesses, which could change SPOV before that write); an instruction that does not write R15 leaves the request as it
was. The instructions that write R15 more often have it in statements of their own (UNLINK and LINK, PUSHM, POPM, IRET,
TRAP, ILL, the divides). Every write of R15 asks when the value is below SPOV, and no other register write does. At the
end of a step a request with SPOVF 0 takes the exception with the PC as it stands, and a request with SPOVF 1 is
dropped. That a request is dropped while SPOVF is 1 is a decision of the spec (D25, log entry 32), and the unsigned
comparison is its inference (R53, log entry 46). That the exception entry leaves the ATM count as it was (D26, log entry
29) and that no DMA access falls inside it (D20, log entry 52) are decisions of the spec. -/
def Obligations.StackOverflow : Prop :=
  (∀ (i : Instr) (s t : State), exec i s = .next t →
      (s.spovReq = true → t.spovReq = true) ∧
      (Undisturbed s → WritesSpOnce s i → t.spovReq = (s.spovReq || decide ((t.reg spReg).toNat < s.spov.toNat))) ∧
      (WritesSpAfterStore i → t.spovReq = (s.spovReq || decide ((t.reg spReg).toNat < t.spov.toNat))) ∧
      (t.spovReq = s.spovReq ∨ WritesSpOnce s i ∨ WritesSpAfterStore i ∨ MayWriteSpOften i)) ∧
    (∀ (r : Reg) (v : Quad) (s : State),
      (s.writeReg r v).spovReq = (s.spovReq || (decide (r = 15#4) && decide (v.toNat < s.spov.toNat)))) ∧
    (∀ (target : Quad) (s : State), s.spovReq = true → s.sysexcp.spovf = false → EntryReady s 8#32 target →
      ∃ t, finishStep s = .next t ∧ ExceptionTaken .stackOverflow s t s.pc target ∧ SameLatches s t
        ∧ t.spovReq = false) ∧
    (∀ s : State, s.spovReq = false ∨ s.sysexcp.spovf = true → finishStep s = .next { s with spovReq := false })

/-- A step of the running CPU that accepts no request, whose PC is above PCOV, unsigned, while PCOVF is 0, fetches the
instruction and does not execute it: it takes the exception with the address after the instruction and clears the prefix
latches, whatever the instruction is; the DMA controller does nothing between the fetches. What is compared and that the
instruction is skipped are decisions of the spec (D10). That the skipped instruction and the exception entry leave the
ATM count as it was (D26, log entry 29) and that no DMA access falls inside the entry (D20, log entry 52) are others. -/
def Obligations.PcOverflow : Prop :=
  ∀ (target : Quad) (s : State), s.runMode = .running → boundaryRequest s = none → Fetchable s →
    s.pcov.toNat < s.pc.toNat → s.sysexcp.pcovf = false → EntryReady s 8#32 target → StackAbove s 6 →
    s.spovReq = false →
    ∃ t, step s = .next t
      ∧ ExceptionTaken .pcOverflow s t (s.pc + BitVec.ofNat 32 (2 * instrWords (wordAtPc s))) target
      ∧ t.extPending = false ∧ t.noflagsPending = false ∧ t.spovReq = false

/-- A step of the running CPU that accepts no request and finds an unimplemented word at a PC not above PCOV takes the
Illegal Instruction exception with the address of that word and clears the prefix latches, while the ILL bit is 0. The
DMA controller does nothing between the fetches. That an ATM window does not count the illegal word, so that the step
leaves the ATM count as it was (D26, log entry 29), and that no DMA access falls inside the entry (D20, log entry 52)
are decisions of the spec. -/
def Obligations.UnimplementedWordTraps : Prop :=
  ∀ (target : Quad) (s : State), s.runMode = .running → boundaryRequest s = none → Fetchable s →
    pcOverflows s = false → decode s.extPending (instrBytes s) = .whole (.illegal (wordAtPc s)) →
    s.sysexcp.ill = false → EntryReady s 8#32 target → StackAbove s 6 → s.spovReq = false →
    ∃ t, step s = .next t ∧ ExceptionTaken .illegalInstruction s t s.pc target
      ∧ t.extPending = false ∧ t.noflagsPending = false ∧ t.spovReq = false
end

