-- ==== Sys2Proof/Laws/Memory.lean ====
section
/-! SUPPORT. The laws of memory: reading after writing, and the canonical form that every operation keeps. -/

namespace Sys2Proof.Machine

theorem Memory.read_write_same (p : Nat) (v : Byte) (m : Memory) (h : Memory.wf m) :
    Memory.read p (Memory.write p v m) = v := by
  induction m with
  | nil => by_cases hv : v = erasedByte <;> simp [Memory.write, Memory.read, hv]
  | cons c m ih =>
    obtain ⟨q, u⟩ := c
    have hm : Memory.wf m := ⟨(List.pairwise_cons.1 h.1).2, fun c hc => h.2 c (List.mem_cons_of_mem _ hc)⟩
    have hq : ∀ c ∈ m, q < c.1 := (List.pairwise_cons.1 h.1).1
    have below : ∀ m' : Memory, (∀ c ∈ m', p < c.1) → Memory.read p m' = erasedByte := by
      intro m' h'
      induction m' with
      | nil => rfl
      | cons c m' ih' =>
        have hc := h' c List.mem_cons_self
        simp only [Memory.read]
        rw [if_neg (by omega)]
        exact ih' fun c hc => h' c (List.mem_cons_of_mem _ hc)
    simp only [Memory.write]
    split
    · rename_i hlt
      split
      · rename_i hv
        rw [hv]
        exact below _ (by
          intro c hc
          rcases List.mem_cons.1 hc with rfl | hc
          · exact hlt
          · exact Nat.lt_trans hlt (hq c hc))
      · simp [Memory.read]
    · split
      · rename_i hpq
        subst hpq
        split
        · rename_i hv
          rw [hv]
          exact below _ hq
        · simp [Memory.read]
      · rename_i hpq
        simp only [Memory.read]
        rw [if_neg (fun h => hpq h.symm)]
        exact ih hm

theorem Memory.read_write_other (p q : Nat) (v : Byte) (m : Memory) (h : q ≠ p) :
    Memory.read q (Memory.write p v m) = Memory.read q m := by
  induction m with
  | nil => by_cases hv : v = erasedByte <;> simp [Memory.write, Memory.read, hv, Ne.symm h]
  | cons c m ih =>
    obtain ⟨r, u⟩ := c
    simp only [Memory.write]
    split
    · split
      · rfl
      · simp [Memory.read, Ne.symm h]
    · split
      · rename_i hpr
        subst hpr
        split <;> simp [Memory.read, Ne.symm h]
      · simp only [Memory.read, ih]

theorem Memory.mem_write (p : Nat) (v : Byte) (m : Memory) (c : Host.Cell) (h : c ∈ Memory.write p v m) :
    c ∈ m ∨ c = (p, v) ∧ v ≠ erasedByte := by
  induction m with
  | nil =>
    simp only [Memory.write] at h
    split at h
    · simp at h
    · rename_i hv
      simp only [List.mem_singleton] at h
      exact .inr ⟨h, hv⟩
  | cons d m ih =>
    obtain ⟨q, u⟩ := d
    simp only [Memory.write] at h
    split at h
    · split at h
      · exact .inl h
      · rename_i hv
        rcases List.mem_cons.1 h with h | h
        · exact .inr ⟨h, hv⟩
        · exact .inl h
    · split at h
      · split at h
        · exact .inl (List.mem_cons_of_mem _ h)
        · rename_i hv
          rcases List.mem_cons.1 h with h | h
          · exact .inr ⟨h, hv⟩
          · exact .inl (List.mem_cons_of_mem _ h)
      · rcases List.mem_cons.1 h with h | h
        · exact .inl (h ▸ List.mem_cons_self)
        · exact (ih h).imp_left (List.mem_cons_of_mem _)

theorem Memory.wf_nil : Memory.wf [] := ⟨List.Pairwise.nil, by simp⟩

/-- A write keeps the canonical form. -/
theorem Memory.wf_write (p : Nat) (v : Byte) (m : Memory) (h : Memory.wf m) : Memory.wf (Memory.write p v m) := by
  refine ⟨?_, fun c hc => ?_⟩
  · have hp := h.1
    clear h
    induction m with
    | nil => simp only [Memory.write]; split <;> simp
    | cons d m ih =>
      obtain ⟨q, u⟩ := d
      have hq := (List.pairwise_cons.1 hp).1
      have hm := (List.pairwise_cons.1 hp).2
      simp only [Memory.write]
      split
      · rename_i hlt
        split
        · exact hp
        · refine List.pairwise_cons.2 ⟨fun c hc => ?_, hp⟩
          rcases List.mem_cons.1 hc with rfl | hc
          · exact hlt
          · exact Nat.lt_trans hlt (hq c hc)
      · split
        · rename_i hpq
          subst hpq
          split
          · exact hm
          · exact List.pairwise_cons.2 ⟨hq, hm⟩
        · refine List.pairwise_cons.2 ⟨fun c hc => ?_, ih hm⟩
          rcases Memory.mem_write p v m c hc with hc | ⟨rfl, -⟩
          · exact hq c hc
          · simp only; omega
  · rcases Memory.mem_write p v m c hc with hc | ⟨rfl, hv⟩
    · exact h.2 c hc
    · exact hv

/-! ### Two bytes stored in either order -/

/-- Writing the byte that an unlisted address reads as, below every entry, writes nothing. -/
theorem Memory.write_erased_below {p : Nat} {m : Memory} (h : ∀ c ∈ m, p < c.1) : Memory.write p erasedByte m = m := by
  cases m with
  | nil => rfl
  | cons c m => simp [Memory.write, h c List.mem_cons_self]

/-- Writing a byte below every entry puts it in front. -/
theorem Memory.write_below {p : Nat} {v : Byte} (hv : v ≠ erasedByte) {m : Memory} (h : ∀ c ∈ m, p < c.1) :
    Memory.write p v m = (p, v) :: m := by
  cases m with
  | nil => simp [Memory.write, hv]
  | cons c m => simp [Memory.write, h c List.mem_cons_self, hv]

theorem Memory.write_comm {p q : Nat} (h : p ≠ q) (v w : Byte) {m : Memory} (hm : Memory.wf m) :
    Memory.write p v (Memory.write q w m) = Memory.write q w (Memory.write p v m) := by
  obtain ⟨hm, -⟩ := hm
  induction m with
  | nil => by_cases hv : v = erasedByte <;> by_cases hw : w = erasedByte <;> grind [Memory.write]
  | cons c m ih =>
    obtain ⟨hc, hm⟩ := List.pairwise_cons.1 hm
    have ih := ih hm
    have below : ∀ a, a < c.1 → ∀ d ∈ m, a < d.1 := fun a ha d hd => Nat.lt_trans ha (hc d hd)
    have ep := fun a => @Memory.write_erased_below a m
    have ew := fun a x hx => @Memory.write_below a x hx m
    obtain ⟨r, u⟩ := c
    by_cases hv : v = erasedByte <;> by_cases hw : w = erasedByte <;> grind [Memory.write]

theorem noteAddress_comm (p q : Nat) (l : List Nat) : noteAddress p (noteAddress q l) = noteAddress q (noteAddress p l) := by
  induction l with
  | nil => grind [noteAddress]
  | cons r l ih => grind [noteAddress]

theorem mem_noteAddress {p q : Nat} {l : List Nat} : q ∈ noteAddress p l ↔ q = p ∨ q ∈ l := by
  induction l with
  | nil => simp [noteAddress]
  | cons r l ih => grind [noteAddress]

/-- A set of addresses stays a rising list. -/
theorem noteAddress_rising {p : Nat} {l : List Nat} (h : l.Pairwise (· < ·)) : (noteAddress p l).Pairwise (· < ·) := by
  induction l with
  | nil => simp [noteAddress]
  | cons r l ih =>
    obtain ⟨hr, hl⟩ := List.pairwise_cons.1 h
    have := ih hl
    have hm := fun q => @mem_noteAddress p q l
    grind [noteAddress, List.pairwise_cons]

/-! ### The address space -/

theorem physical_lt (d : Device) (a : Quad) : physical d a < d.addrWidth.space :=
  Nat.mod_lt _ (by cases d.addrWidth <;> decide)

theorem ioBase_le_space (d : Device) : ioBase d ≤ d.addrWidth.space := by
  unfold ioBase; cases d.addrWidth <;> decide

theorem locateIo_ne_memory (d : Device) (o p : Nat) : locateIo d o ≠ .memory p ∧ locateIo d o ≠ .readOnly p
    ∧ locateIo d o ≠ .unavailable := by
  unfold locateIo
  repeat' split
  all_goals simp

/-- Memory locations are keyed by the physical address, which is outside the I/O block. -/
theorem locate_eq_memory {d : Device} {a : Quad} {p : Nat} (h : locate d a = .memory p) :
    p = physical d a ∧ physical d a < ioBase d := by
  unfold locate at h
  split at h
  · exact absurd h (locateIo_ne_memory d _ p).1
  · refine ⟨?_, by omega⟩
    unfold locateMem at h
    split at h
    · cases h
    · split at h <;> first | (cases h; done) | (injection h with h; exact h.symm)

theorem locate_eq_readOnly {d : Device} {a : Quad} {p : Nat} (h : locate d a = .readOnly p) :
    p = physical d a ∧ physical d a < ioBase d := by
  unfold locate at h
  split at h
  · exact absurd h (locateIo_ne_memory d _ p).2.1
  · refine ⟨?_, by omega⟩
    unfold locateMem at h
    split at h
    · cases h
    · split at h <;> first | (cases h; done) | (injection h with h; exact h.symm)

/-- Two bytes of the I/O block at one place are at a place without a register of its own. -/
theorem locateIo_eq_cases {d : Device} (x y : Nat) (hne : x ≠ y) (he : locateIo d x = locateIo d y) :
    locateIo d x = .ioUnavailable ∨ locateIo d x = .peripheral ∨ locateIo d x = .unavailable := by
  have key : ∀ o, locateIo d o = .ioUnavailable ∨ locateIo d o = .peripheral ∨
      (inWindow o 4 4 = true ∧ locateIo d o = .pcov (o - 4)) ∨ (inWindow o 0xC 4 = true ∧ locateIo d o = .spov (o - 0xC))
      ∨ (o = 0x10 ∧ locateIo d o = .flags) ∨ (o = 0x12 ∧ locateIo d o = .cpuctl)
      ∨ ∃ l, d.sysexcpLayout = some l ∧ inWindow o l.offset l.bytes = true ∧ locateIo d o = .sysexcp l (o - l.offset) := by
    intro o
    unfold locateIo
    by_cases h1 : inWindow o 4 4 = true
    · rw [if_pos h1]; exact .inr (.inr (.inl ⟨h1, rfl⟩))
    rw [if_neg h1]
    by_cases h2 : inWindow o 0xC 4 = true
    · rw [if_pos h2]; exact .inr (.inr (.inr (.inl ⟨h2, rfl⟩)))
    rw [if_neg h2]
    by_cases h3 : o = 0x10
    · rw [if_pos h3]; exact .inr (.inr (.inr (.inr (.inl ⟨h3, rfl⟩))))
    rw [if_neg h3]
    by_cases h4 : o = 0x12
    · rw [if_pos h4]; exact .inr (.inr (.inr (.inr (.inr (.inl ⟨h4, rfl⟩)))))
    rw [if_neg h4]
    split
    · rename_i l hl
      have := Option.filter_eq_some_iff.1 hl
      exact .inr (.inr (.inr (.inr (.inr (.inr ⟨l, this.1, this.2, rfl⟩)))))
    · split
      · exact .inr (.inl rfl)
      · exact .inl rfl
  rcases key x with h | h | ⟨w, h⟩ | ⟨w, h⟩ | ⟨w, h⟩ | ⟨w, h⟩ | ⟨l, hl, w, h⟩
  · exact .inl h
  · exact .inr (.inl h)
  all_goals
    exfalso
    rw [h] at he
    rcases key y with h' | h' | ⟨w', h'⟩ | ⟨w', h'⟩ | ⟨w', h'⟩ | ⟨w', h'⟩ | ⟨l', hl', w', h'⟩
    all_goals
      rw [h'] at he
      first
        | (cases he; done)
        | (injection he with he1
           simp only [inWindow, Bool.and_eq_true, decide_eq_true_eq] at w w'
           omega)
        | (exact hne (w.trans w'.symm))
        | (rw [hl] at hl'
           injection hl' with hl'
           subst hl'
           injection he with _ he1
           simp only [inWindow, Bool.and_eq_true, decide_eq_true_eq] at w w'
           omega)

/-- Two bytes at one place are at a place that holds no state: two bytes of memory or of a control register are two places. -/
theorem locate_eq_cases {d : Device} {a c : Quad} (h : physical d a ≠ physical d c) (he : locate d a = locate d c) :
    locate d a = .ioUnavailable ∨ locate d a = .peripheral ∨ locate d a = .unavailable := by
  unfold locate at he ⊢
  split at he <;> split at he
  · rename_i h1 h2
    rw [if_pos h1]
    have hne : physical d a - ioBase d ≠ physical d c - ioBase d := by omega
    exact locateIo_eq_cases _ _ hne he
  · exfalso
    have := locateIo_ne_memory d (physical d a - ioBase d)
    unfold locateMem at he
    repeat' split at he
    all_goals first | exact absurd he (this 0).2.2 | exact absurd he (this _).1 | exact absurd he (this _).2.1
  · exfalso
    have := locateIo_ne_memory d (physical d c - ioBase d)
    unfold locateMem at he
    repeat' split at he
    all_goals first | exact absurd he.symm (this 0).2.2 | exact absurd he.symm (this _).1 | exact absurd he.symm (this _).2.1
  · rename_i h1 h2
    rw [if_neg h1]
    unfold locateMem at he ⊢
    repeat' split at he
    all_goals simp_all

/-! ### A byte after a byte is stored -/

theorem putByte_mem (a : Quad) (v : Byte) (s : State) :
    (putByte a v s).mem = match locate s.dev a with
      | .memory p => Memory.write p v s.mem
      | _ => s.mem := by
  unfold putByte
  generalize locate s.dev a = l
  cases l <;> rfl

theorem putByte_mem_wf (a : Quad) (v : Byte) (s : State) (h : Memory.wf s.mem) : Memory.wf (putByte a v s).mem := by
  rw [putByte_mem]
  split
  · exact Memory.wf_write _ _ _ h
  · exact h

theorem putByte_mem_outsideIo (a : Quad) (v : Byte) (s : State) (h : ∀ c ∈ s.mem, c.1 < ioBase s.dev) :
    ∀ c ∈ (putByte a v s).mem, c.1 < ioBase s.dev := by
  rw [putByte_mem]
  split
  · rename_i p hp
    intro c hc
    rcases Memory.mem_write _ _ _ _ hc with hc | ⟨rfl, -⟩
    · exact h c hc
    · have := locate_eq_memory hp
      simp only
      omega
  · exact h

/-- Storing a byte of memory and reading it back. -/
theorem byteAt_putByte_same (a : Quad) (v : Byte) (s : State) (hw : Memory.wf s.mem) {p : Nat}
    (hp : locate s.dev a = .memory p) : byteAt a (putByte a v s) = v := by
  have hd : (putByte a v s).dev = s.dev := by unfold putByte; rw [hp]
  unfold byteAt
  rw [hd, hp]
  simp only [putByte_mem, hp]
  exact Memory.read_write_same p v s.mem hw

end Sys2Proof.Machine
end

