-- ==== Sys2Proof/Laws/State.lean ====
section
/-! SUPPORT. One lemma per field and update of State, so that no later proof unfolds a record update. -/

namespace Sys2Proof.Machine

@[simp] theorem writeReg_pc (s : State) (r : Reg) (v : Quad) : (s.writeReg r v).pc = s.pc := rfl
@[simp] theorem writeReg_flags (s : State) (r : Reg) (v : Quad) : (s.writeReg r v).flags = s.flags := rfl
@[simp] theorem writeReg_pcov (s : State) (r : Reg) (v : Quad) : (s.writeReg r v).pcov = s.pcov := rfl
@[simp] theorem writeReg_spov (s : State) (r : Reg) (v : Quad) : (s.writeReg r v).spov = s.spov := rfl
@[simp] theorem writeReg_dmabw (s : State) (r : Reg) (v : Quad) : (s.writeReg r v).dmabw = s.dmabw := rfl
@[simp] theorem writeReg_sysexcp (s : State) (r : Reg) (v : Quad) : (s.writeReg r v).sysexcp = s.sysexcp := rfl
@[simp] theorem writeReg_mem (s : State) (r : Reg) (v : Quad) : (s.writeReg r v).mem = s.mem := rfl
@[simp] theorem writeReg_extPending (s : State) (r : Reg) (v : Quad) : (s.writeReg r v).extPending = s.extPending := rfl
@[simp] theorem writeReg_noflagsPending (s : State) (r : Reg) (v : Quad) : (s.writeReg r v).noflagsPending = s.noflagsPending := rfl
@[simp] theorem writeReg_atmCount (s : State) (r : Reg) (v : Quad) : (s.writeReg r v).atmCount = s.atmCount := rfl
@[simp] theorem writeReg_pending (s : State) (r : Reg) (v : Quad) : (s.writeReg r v).pending = s.pending := rfl
@[simp] theorem writeReg_runMode (s : State) (r : Reg) (v : Quad) : (s.writeReg r v).runMode = s.runMode := rfl
@[simp] theorem writeReg_wdtEnabled (s : State) (r : Reg) (v : Quad) : (s.writeReg r v).wdtEnabled = s.wdtEnabled := rfl
@[simp] theorem writeReg_wdtCounter (s : State) (r : Reg) (v : Quad) : (s.writeReg r v).wdtCounter = s.wdtCounter := rfl
@[simp] theorem writeReg_dmaPlan (s : State) (r : Reg) (v : Quad) : (s.writeReg r v).dmaPlan = s.dmaPlan := rfl
@[simp] theorem writeReg_dmaSeen (s : State) (r : Reg) (v : Quad) : (s.writeReg r v).dmaSeen = s.dmaSeen := rfl
@[simp] theorem writeReg_dirty (s : State) (r : Reg) (v : Quad) : (s.writeReg r v).dirty = s.dirty := rfl
@[simp] theorem writeReg_dev (s : State) (r : Reg) (v : Quad) : (s.writeReg r v).dev = s.dev := rfl

@[simp] theorem setFlags_regs (s : State) (p : FlagPatch) : (s.setFlags p).regs = s.regs := by unfold State.setFlags; split <;> rfl
@[simp] theorem setFlags_pc (s : State) (p : FlagPatch) : (s.setFlags p).pc = s.pc := by unfold State.setFlags; split <;> rfl
@[simp] theorem setFlags_pcov (s : State) (p : FlagPatch) : (s.setFlags p).pcov = s.pcov := by unfold State.setFlags; split <;> rfl
@[simp] theorem setFlags_spov (s : State) (p : FlagPatch) : (s.setFlags p).spov = s.spov := by unfold State.setFlags; split <;> rfl
@[simp] theorem setFlags_dmabw (s : State) (p : FlagPatch) : (s.setFlags p).dmabw = s.dmabw := by unfold State.setFlags; split <;> rfl
@[simp] theorem setFlags_sysexcp (s : State) (p : FlagPatch) : (s.setFlags p).sysexcp = s.sysexcp := by unfold State.setFlags; split <;> rfl
@[simp] theorem setFlags_mem (s : State) (p : FlagPatch) : (s.setFlags p).mem = s.mem := by unfold State.setFlags; split <;> rfl
@[simp] theorem setFlags_extPending (s : State) (p : FlagPatch) : (s.setFlags p).extPending = s.extPending := by unfold State.setFlags; split <;> rfl
@[simp] theorem setFlags_noflagsPending (s : State) (p : FlagPatch) : (s.setFlags p).noflagsPending = s.noflagsPending := by unfold State.setFlags; split <;> rfl
@[simp] theorem setFlags_atmCount (s : State) (p : FlagPatch) : (s.setFlags p).atmCount = s.atmCount := by unfold State.setFlags; split <;> rfl
@[simp] theorem setFlags_pending (s : State) (p : FlagPatch) : (s.setFlags p).pending = s.pending := by unfold State.setFlags; split <;> rfl
@[simp] theorem setFlags_runMode (s : State) (p : FlagPatch) : (s.setFlags p).runMode = s.runMode := by unfold State.setFlags; split <;> rfl
@[simp] theorem setFlags_wdtEnabled (s : State) (p : FlagPatch) : (s.setFlags p).wdtEnabled = s.wdtEnabled := by unfold State.setFlags; split <;> rfl
@[simp] theorem setFlags_wdtCounter (s : State) (p : FlagPatch) : (s.setFlags p).wdtCounter = s.wdtCounter := by unfold State.setFlags; split <;> rfl
@[simp] theorem setFlags_dmaPlan (s : State) (p : FlagPatch) : (s.setFlags p).dmaPlan = s.dmaPlan := by unfold State.setFlags; split <;> rfl
@[simp] theorem setFlags_dmaSeen (s : State) (p : FlagPatch) : (s.setFlags p).dmaSeen = s.dmaSeen := by unfold State.setFlags; split <;> rfl
@[simp] theorem setFlags_spovReq (s : State) (p : FlagPatch) : (s.setFlags p).spovReq = s.spovReq := by unfold State.setFlags; split <;> rfl
@[simp] theorem setFlags_dirty (s : State) (p : FlagPatch) : (s.setFlags p).dirty = s.dirty := by unfold State.setFlags; split <;> rfl
@[simp] theorem setFlags_dev (s : State) (p : FlagPatch) : (s.setFlags p).dev = s.dev := by unfold State.setFlags; split <;> rfl
@[simp] theorem setFlags_reg (s : State) (p : FlagPatch) (q : Reg) : (s.setFlags p).reg q = s.reg q := by unfold State.reg; simp

@[simp] theorem jumpTo_regs (t : Quad) (s : State) : (jumpTo t s).regs = s.regs := rfl
@[simp] theorem jumpTo_flags (t : Quad) (s : State) : (jumpTo t s).flags = s.flags := rfl
@[simp] theorem jumpTo_pcov (t : Quad) (s : State) : (jumpTo t s).pcov = s.pcov := rfl
@[simp] theorem jumpTo_spov (t : Quad) (s : State) : (jumpTo t s).spov = s.spov := rfl
@[simp] theorem jumpTo_dmabw (t : Quad) (s : State) : (jumpTo t s).dmabw = s.dmabw := rfl
@[simp] theorem jumpTo_sysexcp (t : Quad) (s : State) : (jumpTo t s).sysexcp = s.sysexcp := rfl
@[simp] theorem jumpTo_mem (t : Quad) (s : State) : (jumpTo t s).mem = s.mem := rfl
@[simp] theorem jumpTo_extPending (t : Quad) (s : State) : (jumpTo t s).extPending = s.extPending := rfl
@[simp] theorem jumpTo_noflagsPending (t : Quad) (s : State) : (jumpTo t s).noflagsPending = s.noflagsPending := rfl
@[simp] theorem jumpTo_atmCount (t : Quad) (s : State) : (jumpTo t s).atmCount = s.atmCount := rfl
@[simp] theorem jumpTo_pending (t : Quad) (s : State) : (jumpTo t s).pending = s.pending := rfl
@[simp] theorem jumpTo_runMode (t : Quad) (s : State) : (jumpTo t s).runMode = s.runMode := rfl
@[simp] theorem jumpTo_wdtEnabled (t : Quad) (s : State) : (jumpTo t s).wdtEnabled = s.wdtEnabled := rfl
@[simp] theorem jumpTo_wdtCounter (t : Quad) (s : State) : (jumpTo t s).wdtCounter = s.wdtCounter := rfl
@[simp] theorem jumpTo_dmaPlan (t : Quad) (s : State) : (jumpTo t s).dmaPlan = s.dmaPlan := rfl
@[simp] theorem jumpTo_dmaSeen (t : Quad) (s : State) : (jumpTo t s).dmaSeen = s.dmaSeen := rfl
@[simp] theorem jumpTo_spovReq (t : Quad) (s : State) : (jumpTo t s).spovReq = s.spovReq := rfl
@[simp] theorem jumpTo_dev (t : Quad) (s : State) : (jumpTo t s).dev = s.dev := rfl
@[simp] theorem jumpTo_reg (t : Quad) (s : State) (q : Reg) : (jumpTo t s).reg q = s.reg q := rfl

@[simp] theorem jumpTo_pc (t : Quad) (s : State) : (jumpTo t s).pc = t := rfl
@[simp] theorem jumpTo_dirty (t : Quad) (s : State) : (jumpTo t s).dirty = [] := rfl

@[simp] theorem clearLatches_regs (s : State) : (clearLatches s).regs = s.regs := rfl
@[simp] theorem clearLatches_pc (s : State) : (clearLatches s).pc = s.pc := rfl
@[simp] theorem clearLatches_flags (s : State) : (clearLatches s).flags = s.flags := rfl
@[simp] theorem clearLatches_pcov (s : State) : (clearLatches s).pcov = s.pcov := rfl
@[simp] theorem clearLatches_spov (s : State) : (clearLatches s).spov = s.spov := rfl
@[simp] theorem clearLatches_dmabw (s : State) : (clearLatches s).dmabw = s.dmabw := rfl
@[simp] theorem clearLatches_sysexcp (s : State) : (clearLatches s).sysexcp = s.sysexcp := rfl
@[simp] theorem clearLatches_mem (s : State) : (clearLatches s).mem = s.mem := rfl
@[simp] theorem clearLatches_atmCount (s : State) : (clearLatches s).atmCount = s.atmCount := rfl
@[simp] theorem clearLatches_pending (s : State) : (clearLatches s).pending = s.pending := rfl
@[simp] theorem clearLatches_runMode (s : State) : (clearLatches s).runMode = s.runMode := rfl
@[simp] theorem clearLatches_wdtEnabled (s : State) : (clearLatches s).wdtEnabled = s.wdtEnabled := rfl
@[simp] theorem clearLatches_wdtCounter (s : State) : (clearLatches s).wdtCounter = s.wdtCounter := rfl
@[simp] theorem clearLatches_dmaPlan (s : State) : (clearLatches s).dmaPlan = s.dmaPlan := rfl
@[simp] theorem clearLatches_dmaSeen (s : State) : (clearLatches s).dmaSeen = s.dmaSeen := rfl
@[simp] theorem clearLatches_spovReq (s : State) : (clearLatches s).spovReq = s.spovReq := rfl
@[simp] theorem clearLatches_dirty (s : State) : (clearLatches s).dirty = s.dirty := rfl
@[simp] theorem clearLatches_dev (s : State) : (clearLatches s).dev = s.dev := rfl
@[simp] theorem clearLatches_reg (s : State) (q : Reg) : (clearLatches s).reg q = s.reg q := rfl

@[simp] theorem clearLatches_extPending (s : State) : (clearLatches s).extPending = false := rfl
@[simp] theorem clearLatches_noflagsPending (s : State) : (clearLatches s).noflagsPending = false := rfl

@[simp] theorem consumeLatches_regs (s : State) : (consumeLatches s).regs = s.regs := rfl
@[simp] theorem consumeLatches_pc (s : State) : (consumeLatches s).pc = s.pc := rfl
@[simp] theorem consumeLatches_flags (s : State) : (consumeLatches s).flags = s.flags := rfl
@[simp] theorem consumeLatches_pcov (s : State) : (consumeLatches s).pcov = s.pcov := rfl
@[simp] theorem consumeLatches_spov (s : State) : (consumeLatches s).spov = s.spov := rfl
@[simp] theorem consumeLatches_dmabw (s : State) : (consumeLatches s).dmabw = s.dmabw := rfl
@[simp] theorem consumeLatches_sysexcp (s : State) : (consumeLatches s).sysexcp = s.sysexcp := rfl
@[simp] theorem consumeLatches_mem (s : State) : (consumeLatches s).mem = s.mem := rfl
@[simp] theorem consumeLatches_pending (s : State) : (consumeLatches s).pending = s.pending := rfl
@[simp] theorem consumeLatches_runMode (s : State) : (consumeLatches s).runMode = s.runMode := rfl
@[simp] theorem consumeLatches_wdtEnabled (s : State) : (consumeLatches s).wdtEnabled = s.wdtEnabled := rfl
@[simp] theorem consumeLatches_wdtCounter (s : State) : (consumeLatches s).wdtCounter = s.wdtCounter := rfl
@[simp] theorem consumeLatches_dmaPlan (s : State) : (consumeLatches s).dmaPlan = s.dmaPlan := rfl
@[simp] theorem consumeLatches_dmaSeen (s : State) : (consumeLatches s).dmaSeen = s.dmaSeen := rfl
@[simp] theorem consumeLatches_spovReq (s : State) : (consumeLatches s).spovReq = s.spovReq := rfl
@[simp] theorem consumeLatches_dirty (s : State) : (consumeLatches s).dirty = s.dirty := rfl
@[simp] theorem consumeLatches_dev (s : State) : (consumeLatches s).dev = s.dev := rfl
@[simp] theorem consumeLatches_reg (s : State) (q : Reg) : (consumeLatches s).reg q = s.reg q := rfl

@[simp] theorem consumeLatches_extPending (s : State) : (consumeLatches s).extPending = false := rfl
@[simp] theorem consumeLatches_noflagsPending (s : State) : (consumeLatches s).noflagsPending = false := rfl
@[simp] theorem consumeLatches_atmCount (s : State) : (consumeLatches s).atmCount = s.atmCount - 1 := rfl

@[simp] theorem copyIrqe_regs (s : State) : (copyIrqe s).regs = s.regs := rfl
@[simp] theorem copyIrqe_pc (s : State) : (copyIrqe s).pc = s.pc := rfl
@[simp] theorem copyIrqe_pcov (s : State) : (copyIrqe s).pcov = s.pcov := rfl
@[simp] theorem copyIrqe_spov (s : State) : (copyIrqe s).spov = s.spov := rfl
@[simp] theorem copyIrqe_dmabw (s : State) : (copyIrqe s).dmabw = s.dmabw := rfl
@[simp] theorem copyIrqe_sysexcp (s : State) : (copyIrqe s).sysexcp = s.sysexcp := rfl
@[simp] theorem copyIrqe_mem (s : State) : (copyIrqe s).mem = s.mem := rfl
@[simp] theorem copyIrqe_extPending (s : State) : (copyIrqe s).extPending = s.extPending := rfl
@[simp] theorem copyIrqe_noflagsPending (s : State) : (copyIrqe s).noflagsPending = s.noflagsPending := rfl
@[simp] theorem copyIrqe_atmCount (s : State) : (copyIrqe s).atmCount = s.atmCount := rfl
@[simp] theorem copyIrqe_pending (s : State) : (copyIrqe s).pending = s.pending := rfl
@[simp] theorem copyIrqe_runMode (s : State) : (copyIrqe s).runMode = s.runMode := rfl
@[simp] theorem copyIrqe_wdtEnabled (s : State) : (copyIrqe s).wdtEnabled = s.wdtEnabled := rfl
@[simp] theorem copyIrqe_wdtCounter (s : State) : (copyIrqe s).wdtCounter = s.wdtCounter := rfl
@[simp] theorem copyIrqe_dmaPlan (s : State) : (copyIrqe s).dmaPlan = s.dmaPlan := rfl
@[simp] theorem copyIrqe_dmaSeen (s : State) : (copyIrqe s).dmaSeen = s.dmaSeen := rfl
@[simp] theorem copyIrqe_spovReq (s : State) : (copyIrqe s).spovReq = s.spovReq := rfl
@[simp] theorem copyIrqe_dirty (s : State) : (copyIrqe s).dirty = s.dirty := rfl
@[simp] theorem copyIrqe_dev (s : State) : (copyIrqe s).dev = s.dev := rfl
@[simp] theorem copyIrqe_reg (s : State) (q : Reg) : (copyIrqe s).reg q = s.reg q := rfl

@[simp] theorem copyIrqe_flags (s : State) : (copyIrqe s).flags = setCirqe (flagIrqe s.flags) s.flags := rfl

@[simp] theorem excIrqe_regs (s : State) : (excIrqe s).regs = s.regs := by unfold excIrqe; split <;> rfl
@[simp] theorem excIrqe_pc (s : State) : (excIrqe s).pc = s.pc := by unfold excIrqe; split <;> rfl
@[simp] theorem excIrqe_pcov (s : State) : (excIrqe s).pcov = s.pcov := by unfold excIrqe; split <;> rfl
@[simp] theorem excIrqe_spov (s : State) : (excIrqe s).spov = s.spov := by unfold excIrqe; split <;> rfl
@[simp] theorem excIrqe_dmabw (s : State) : (excIrqe s).dmabw = s.dmabw := by unfold excIrqe; split <;> rfl
@[simp] theorem excIrqe_sysexcp (s : State) : (excIrqe s).sysexcp = s.sysexcp := by unfold excIrqe; split <;> rfl
@[simp] theorem excIrqe_mem (s : State) : (excIrqe s).mem = s.mem := by unfold excIrqe; split <;> rfl
@[simp] theorem excIrqe_extPending (s : State) : (excIrqe s).extPending = s.extPending := by unfold excIrqe; split <;> rfl
@[simp] theorem excIrqe_noflagsPending (s : State) : (excIrqe s).noflagsPending = s.noflagsPending := by unfold excIrqe; split <;> rfl
@[simp] theorem excIrqe_atmCount (s : State) : (excIrqe s).atmCount = s.atmCount := by unfold excIrqe; split <;> rfl
@[simp] theorem excIrqe_pending (s : State) : (excIrqe s).pending = s.pending := by unfold excIrqe; split <;> rfl
@[simp] theorem excIrqe_runMode (s : State) : (excIrqe s).runMode = s.runMode := by unfold excIrqe; split <;> rfl
@[simp] theorem excIrqe_wdtEnabled (s : State) : (excIrqe s).wdtEnabled = s.wdtEnabled := by unfold excIrqe; split <;> rfl
@[simp] theorem excIrqe_wdtCounter (s : State) : (excIrqe s).wdtCounter = s.wdtCounter := by unfold excIrqe; split <;> rfl
@[simp] theorem excIrqe_dmaPlan (s : State) : (excIrqe s).dmaPlan = s.dmaPlan := by unfold excIrqe; split <;> rfl
@[simp] theorem excIrqe_dmaSeen (s : State) : (excIrqe s).dmaSeen = s.dmaSeen := by unfold excIrqe; split <;> rfl
@[simp] theorem excIrqe_spovReq (s : State) : (excIrqe s).spovReq = s.spovReq := by unfold excIrqe; split <;> rfl
@[simp] theorem excIrqe_dirty (s : State) : (excIrqe s).dirty = s.dirty := by unfold excIrqe; split <;> rfl
@[simp] theorem excIrqe_dev (s : State) : (excIrqe s).dev = s.dev := by unfold excIrqe; split <;> rfl
@[simp] theorem excIrqe_reg (s : State) (q : Reg) : (excIrqe s).reg q = s.reg q := by unfold State.reg; simp

@[simp] theorem acceptHead_regs (s : State) : (acceptHead s).regs = s.regs := rfl
@[simp] theorem acceptHead_pc (s : State) : (acceptHead s).pc = s.pc := rfl
@[simp] theorem acceptHead_flags (s : State) : (acceptHead s).flags = s.flags := rfl
@[simp] theorem acceptHead_pcov (s : State) : (acceptHead s).pcov = s.pcov := rfl
@[simp] theorem acceptHead_spov (s : State) : (acceptHead s).spov = s.spov := rfl
@[simp] theorem acceptHead_dmabw (s : State) : (acceptHead s).dmabw = s.dmabw := rfl
@[simp] theorem acceptHead_sysexcp (s : State) : (acceptHead s).sysexcp = s.sysexcp := rfl
@[simp] theorem acceptHead_mem (s : State) : (acceptHead s).mem = s.mem := rfl
@[simp] theorem acceptHead_extPending (s : State) : (acceptHead s).extPending = s.extPending := rfl
@[simp] theorem acceptHead_noflagsPending (s : State) : (acceptHead s).noflagsPending = s.noflagsPending := rfl
@[simp] theorem acceptHead_atmCount (s : State) : (acceptHead s).atmCount = s.atmCount := rfl
@[simp] theorem acceptHead_runMode (s : State) : (acceptHead s).runMode = s.runMode := rfl
@[simp] theorem acceptHead_wdtEnabled (s : State) : (acceptHead s).wdtEnabled = s.wdtEnabled := rfl
@[simp] theorem acceptHead_wdtCounter (s : State) : (acceptHead s).wdtCounter = s.wdtCounter := rfl
@[simp] theorem acceptHead_dmaPlan (s : State) : (acceptHead s).dmaPlan = s.dmaPlan := rfl
@[simp] theorem acceptHead_dmaSeen (s : State) : (acceptHead s).dmaSeen = s.dmaSeen := rfl
@[simp] theorem acceptHead_spovReq (s : State) : (acceptHead s).spovReq = s.spovReq := rfl
@[simp] theorem acceptHead_dirty (s : State) : (acceptHead s).dirty = s.dirty := rfl
@[simp] theorem acceptHead_dev (s : State) : (acceptHead s).dev = s.dev := rfl
@[simp] theorem acceptHead_reg (s : State) (q : Reg) : (acceptHead s).reg q = s.reg q := rfl

@[simp] theorem acceptHead_pending (s : State) : (acceptHead s).pending = s.pending.tail := rfl

@[simp] theorem putByte_regs (a : Quad) (v : Byte) (s : State) : (putByte a v s).regs = s.regs := by unfold putByte; generalize locate s.dev a = l; cases l <;> rfl
@[simp] theorem putByte_pc (a : Quad) (v : Byte) (s : State) : (putByte a v s).pc = s.pc := by unfold putByte; generalize locate s.dev a = l; cases l <;> rfl
@[simp] theorem putByte_extPending (a : Quad) (v : Byte) (s : State) : (putByte a v s).extPending = s.extPending := by unfold putByte; generalize locate s.dev a = l; cases l <;> rfl
@[simp] theorem putByte_noflagsPending (a : Quad) (v : Byte) (s : State) : (putByte a v s).noflagsPending = s.noflagsPending := by unfold putByte; generalize locate s.dev a = l; cases l <;> rfl
@[simp] theorem putByte_atmCount (a : Quad) (v : Byte) (s : State) : (putByte a v s).atmCount = s.atmCount := by unfold putByte; generalize locate s.dev a = l; cases l <;> rfl
@[simp] theorem putByte_pending (a : Quad) (v : Byte) (s : State) : (putByte a v s).pending = s.pending := by unfold putByte; generalize locate s.dev a = l; cases l <;> rfl
@[simp] theorem putByte_runMode (a : Quad) (v : Byte) (s : State) : (putByte a v s).runMode = s.runMode := by unfold putByte; generalize locate s.dev a = l; cases l <;> rfl
@[simp] theorem putByte_wdtEnabled (a : Quad) (v : Byte) (s : State) : (putByte a v s).wdtEnabled = s.wdtEnabled := by unfold putByte; generalize locate s.dev a = l; cases l <;> rfl
@[simp] theorem putByte_wdtCounter (a : Quad) (v : Byte) (s : State) : (putByte a v s).wdtCounter = s.wdtCounter := by unfold putByte; generalize locate s.dev a = l; cases l <;> rfl
@[simp] theorem putByte_dmaPlan (a : Quad) (v : Byte) (s : State) : (putByte a v s).dmaPlan = s.dmaPlan := by unfold putByte; generalize locate s.dev a = l; cases l <;> rfl
@[simp] theorem putByte_dmaSeen (a : Quad) (v : Byte) (s : State) : (putByte a v s).dmaSeen = s.dmaSeen := by unfold putByte; generalize locate s.dev a = l; cases l <;> rfl
@[simp] theorem putByte_spovReq (a : Quad) (v : Byte) (s : State) : (putByte a v s).spovReq = s.spovReq := by unfold putByte; generalize locate s.dev a = l; cases l <;> rfl
@[simp] theorem putByte_dev (a : Quad) (v : Byte) (s : State) : (putByte a v s).dev = s.dev := by unfold putByte; generalize locate s.dev a = l; cases l <;> rfl
@[simp] theorem putByte_reg (a : Quad) (v : Byte) (s : State) (q : Reg) : (putByte a v s).reg q = s.reg q := by unfold State.reg; simp

@[simp] theorem putValue_regs (z : Size) (a : Quad) (v : BitVec (Size.bits z)) (s : State) : (putValue z a v s).regs = s.regs := by cases z <;> simp [putValue]
@[simp] theorem putValue_pc (z : Size) (a : Quad) (v : BitVec (Size.bits z)) (s : State) : (putValue z a v s).pc = s.pc := by cases z <;> simp [putValue]
@[simp] theorem putValue_extPending (z : Size) (a : Quad) (v : BitVec (Size.bits z)) (s : State) : (putValue z a v s).extPending = s.extPending := by cases z <;> simp [putValue]
@[simp] theorem putValue_noflagsPending (z : Size) (a : Quad) (v : BitVec (Size.bits z)) (s : State) : (putValue z a v s).noflagsPending = s.noflagsPending := by cases z <;> simp [putValue]
@[simp] theorem putValue_atmCount (z : Size) (a : Quad) (v : BitVec (Size.bits z)) (s : State) : (putValue z a v s).atmCount = s.atmCount := by cases z <;> simp [putValue]
@[simp] theorem putValue_pending (z : Size) (a : Quad) (v : BitVec (Size.bits z)) (s : State) : (putValue z a v s).pending = s.pending := by cases z <;> simp [putValue]
@[simp] theorem putValue_runMode (z : Size) (a : Quad) (v : BitVec (Size.bits z)) (s : State) : (putValue z a v s).runMode = s.runMode := by cases z <;> simp [putValue]
@[simp] theorem putValue_wdtEnabled (z : Size) (a : Quad) (v : BitVec (Size.bits z)) (s : State) : (putValue z a v s).wdtEnabled = s.wdtEnabled := by cases z <;> simp [putValue]
@[simp] theorem putValue_wdtCounter (z : Size) (a : Quad) (v : BitVec (Size.bits z)) (s : State) : (putValue z a v s).wdtCounter = s.wdtCounter := by cases z <;> simp [putValue]
@[simp] theorem putValue_dmaPlan (z : Size) (a : Quad) (v : BitVec (Size.bits z)) (s : State) : (putValue z a v s).dmaPlan = s.dmaPlan := by cases z <;> simp [putValue]
@[simp] theorem putValue_dmaSeen (z : Size) (a : Quad) (v : BitVec (Size.bits z)) (s : State) : (putValue z a v s).dmaSeen = s.dmaSeen := by cases z <;> simp [putValue]
@[simp] theorem putValue_spovReq (z : Size) (a : Quad) (v : BitVec (Size.bits z)) (s : State) : (putValue z a v s).spovReq = s.spovReq := by cases z <;> simp [putValue]
@[simp] theorem putValue_dev (z : Size) (a : Quad) (v : BitVec (Size.bits z)) (s : State) : (putValue z a v s).dev = s.dev := by cases z <;> simp [putValue]
@[simp] theorem putValue_reg (z : Size) (a : Quad) (v : BitVec (Size.bits z)) (s : State) (q : Reg) : (putValue z a v s).reg q = s.reg q := by unfold State.reg; simp

@[simp] theorem loadUpdate_pc (k : LoadKind) (m : LoadMem) (s : State) : (loadUpdate k m s).pc = s.pc := by cases m <;> rfl
@[simp] theorem loadUpdate_flags (k : LoadKind) (m : LoadMem) (s : State) : (loadUpdate k m s).flags = s.flags := by cases m <;> rfl
@[simp] theorem loadUpdate_pcov (k : LoadKind) (m : LoadMem) (s : State) : (loadUpdate k m s).pcov = s.pcov := by cases m <;> rfl
@[simp] theorem loadUpdate_spov (k : LoadKind) (m : LoadMem) (s : State) : (loadUpdate k m s).spov = s.spov := by cases m <;> rfl
@[simp] theorem loadUpdate_dmabw (k : LoadKind) (m : LoadMem) (s : State) : (loadUpdate k m s).dmabw = s.dmabw := by cases m <;> rfl
@[simp] theorem loadUpdate_sysexcp (k : LoadKind) (m : LoadMem) (s : State) : (loadUpdate k m s).sysexcp = s.sysexcp := by cases m <;> rfl
@[simp] theorem loadUpdate_mem (k : LoadKind) (m : LoadMem) (s : State) : (loadUpdate k m s).mem = s.mem := by cases m <;> rfl
@[simp] theorem loadUpdate_extPending (k : LoadKind) (m : LoadMem) (s : State) : (loadUpdate k m s).extPending = s.extPending := by cases m <;> rfl
@[simp] theorem loadUpdate_noflagsPending (k : LoadKind) (m : LoadMem) (s : State) : (loadUpdate k m s).noflagsPending = s.noflagsPending := by cases m <;> rfl
@[simp] theorem loadUpdate_atmCount (k : LoadKind) (m : LoadMem) (s : State) : (loadUpdate k m s).atmCount = s.atmCount := by cases m <;> rfl
@[simp] theorem loadUpdate_pending (k : LoadKind) (m : LoadMem) (s : State) : (loadUpdate k m s).pending = s.pending := by cases m <;> rfl
@[simp] theorem loadUpdate_runMode (k : LoadKind) (m : LoadMem) (s : State) : (loadUpdate k m s).runMode = s.runMode := by cases m <;> rfl
@[simp] theorem loadUpdate_wdtEnabled (k : LoadKind) (m : LoadMem) (s : State) : (loadUpdate k m s).wdtEnabled = s.wdtEnabled := by cases m <;> rfl
@[simp] theorem loadUpdate_wdtCounter (k : LoadKind) (m : LoadMem) (s : State) : (loadUpdate k m s).wdtCounter = s.wdtCounter := by cases m <;> rfl
@[simp] theorem loadUpdate_dmaPlan (k : LoadKind) (m : LoadMem) (s : State) : (loadUpdate k m s).dmaPlan = s.dmaPlan := by cases m <;> rfl
@[simp] theorem loadUpdate_dmaSeen (k : LoadKind) (m : LoadMem) (s : State) : (loadUpdate k m s).dmaSeen = s.dmaSeen := by cases m <;> rfl
@[simp] theorem loadUpdate_dirty (k : LoadKind) (m : LoadMem) (s : State) : (loadUpdate k m s).dirty = s.dirty := by cases m <;> rfl
@[simp] theorem loadUpdate_dev (k : LoadKind) (m : LoadMem) (s : State) : (loadUpdate k m s).dev = s.dev := by cases m <;> rfl

@[simp] theorem storeBefore_pc (z : Size) (m : StoreMem) (s : State) : (storeBefore z m s).pc = s.pc := by cases m <;> rfl
@[simp] theorem storeBefore_flags (z : Size) (m : StoreMem) (s : State) : (storeBefore z m s).flags = s.flags := by cases m <;> rfl
@[simp] theorem storeBefore_pcov (z : Size) (m : StoreMem) (s : State) : (storeBefore z m s).pcov = s.pcov := by cases m <;> rfl
@[simp] theorem storeBefore_spov (z : Size) (m : StoreMem) (s : State) : (storeBefore z m s).spov = s.spov := by cases m <;> rfl
@[simp] theorem storeBefore_dmabw (z : Size) (m : StoreMem) (s : State) : (storeBefore z m s).dmabw = s.dmabw := by cases m <;> rfl
@[simp] theorem storeBefore_sysexcp (z : Size) (m : StoreMem) (s : State) : (storeBefore z m s).sysexcp = s.sysexcp := by cases m <;> rfl
@[simp] theorem storeBefore_mem (z : Size) (m : StoreMem) (s : State) : (storeBefore z m s).mem = s.mem := by cases m <;> rfl
@[simp] theorem storeBefore_extPending (z : Size) (m : StoreMem) (s : State) : (storeBefore z m s).extPending = s.extPending := by cases m <;> rfl
@[simp] theorem storeBefore_noflagsPending (z : Size) (m : StoreMem) (s : State) : (storeBefore z m s).noflagsPending = s.noflagsPending := by cases m <;> rfl
@[simp] theorem storeBefore_atmCount (z : Size) (m : StoreMem) (s : State) : (storeBefore z m s).atmCount = s.atmCount := by cases m <;> rfl
@[simp] theorem storeBefore_pending (z : Size) (m : StoreMem) (s : State) : (storeBefore z m s).pending = s.pending := by cases m <;> rfl
@[simp] theorem storeBefore_runMode (z : Size) (m : StoreMem) (s : State) : (storeBefore z m s).runMode = s.runMode := by cases m <;> rfl
@[simp] theorem storeBefore_wdtEnabled (z : Size) (m : StoreMem) (s : State) : (storeBefore z m s).wdtEnabled = s.wdtEnabled := by cases m <;> rfl
@[simp] theorem storeBefore_wdtCounter (z : Size) (m : StoreMem) (s : State) : (storeBefore z m s).wdtCounter = s.wdtCounter := by cases m <;> rfl
@[simp] theorem storeBefore_dmaPlan (z : Size) (m : StoreMem) (s : State) : (storeBefore z m s).dmaPlan = s.dmaPlan := by cases m <;> rfl
@[simp] theorem storeBefore_dmaSeen (z : Size) (m : StoreMem) (s : State) : (storeBefore z m s).dmaSeen = s.dmaSeen := by cases m <;> rfl
@[simp] theorem storeBefore_dirty (z : Size) (m : StoreMem) (s : State) : (storeBefore z m s).dirty = s.dirty := by cases m <;> rfl
@[simp] theorem storeBefore_dev (z : Size) (m : StoreMem) (s : State) : (storeBefore z m s).dev = s.dev := by cases m <;> rfl

@[simp] theorem storeAfter_pc (z : Size) (m : StoreMem) (s : State) : (storeAfter z m s).pc = s.pc := by cases m <;> rfl
@[simp] theorem storeAfter_flags (z : Size) (m : StoreMem) (s : State) : (storeAfter z m s).flags = s.flags := by cases m <;> rfl
@[simp] theorem storeAfter_pcov (z : Size) (m : StoreMem) (s : State) : (storeAfter z m s).pcov = s.pcov := by cases m <;> rfl
@[simp] theorem storeAfter_spov (z : Size) (m : StoreMem) (s : State) : (storeAfter z m s).spov = s.spov := by cases m <;> rfl
@[simp] theorem storeAfter_dmabw (z : Size) (m : StoreMem) (s : State) : (storeAfter z m s).dmabw = s.dmabw := by cases m <;> rfl
@[simp] theorem storeAfter_sysexcp (z : Size) (m : StoreMem) (s : State) : (storeAfter z m s).sysexcp = s.sysexcp := by cases m <;> rfl
@[simp] theorem storeAfter_mem (z : Size) (m : StoreMem) (s : State) : (storeAfter z m s).mem = s.mem := by cases m <;> rfl
@[simp] theorem storeAfter_extPending (z : Size) (m : StoreMem) (s : State) : (storeAfter z m s).extPending = s.extPending := by cases m <;> rfl
@[simp] theorem storeAfter_noflagsPending (z : Size) (m : StoreMem) (s : State) : (storeAfter z m s).noflagsPending = s.noflagsPending := by cases m <;> rfl
@[simp] theorem storeAfter_atmCount (z : Size) (m : StoreMem) (s : State) : (storeAfter z m s).atmCount = s.atmCount := by cases m <;> rfl
@[simp] theorem storeAfter_pending (z : Size) (m : StoreMem) (s : State) : (storeAfter z m s).pending = s.pending := by cases m <;> rfl
@[simp] theorem storeAfter_runMode (z : Size) (m : StoreMem) (s : State) : (storeAfter z m s).runMode = s.runMode := by cases m <;> rfl
@[simp] theorem storeAfter_wdtEnabled (z : Size) (m : StoreMem) (s : State) : (storeAfter z m s).wdtEnabled = s.wdtEnabled := by cases m <;> rfl
@[simp] theorem storeAfter_wdtCounter (z : Size) (m : StoreMem) (s : State) : (storeAfter z m s).wdtCounter = s.wdtCounter := by cases m <;> rfl
@[simp] theorem storeAfter_dmaPlan (z : Size) (m : StoreMem) (s : State) : (storeAfter z m s).dmaPlan = s.dmaPlan := by cases m <;> rfl
@[simp] theorem storeAfter_dmaSeen (z : Size) (m : StoreMem) (s : State) : (storeAfter z m s).dmaSeen = s.dmaSeen := by cases m <;> rfl
@[simp] theorem storeAfter_dirty (z : Size) (m : StoreMem) (s : State) : (storeAfter z m s).dirty = s.dirty := by cases m <;> rfl
@[simp] theorem storeAfter_dev (z : Size) (m : StoreMem) (s : State) : (storeAfter z m s).dev = s.dev := by cases m <;> rfl

@[simp] theorem retire_regs (i : Instr) (s : State) : (retire i s).regs = s.regs := by unfold retire; split <;> first | rfl | (split <;> rfl)
@[simp] theorem retire_pc (i : Instr) (s : State) : (retire i s).pc = s.pc := by unfold retire; split <;> first | rfl | (split <;> rfl)
@[simp] theorem retire_flags (i : Instr) (s : State) : (retire i s).flags = s.flags := by unfold retire; split <;> first | rfl | (split <;> rfl)
@[simp] theorem retire_pcov (i : Instr) (s : State) : (retire i s).pcov = s.pcov := by unfold retire; split <;> first | rfl | (split <;> rfl)
@[simp] theorem retire_spov (i : Instr) (s : State) : (retire i s).spov = s.spov := by unfold retire; split <;> first | rfl | (split <;> rfl)
@[simp] theorem retire_dmabw (i : Instr) (s : State) : (retire i s).dmabw = s.dmabw := by unfold retire; split <;> first | rfl | (split <;> rfl)
@[simp] theorem retire_sysexcp (i : Instr) (s : State) : (retire i s).sysexcp = s.sysexcp := by unfold retire; split <;> first | rfl | (split <;> rfl)
@[simp] theorem retire_mem (i : Instr) (s : State) : (retire i s).mem = s.mem := by unfold retire; split <;> first | rfl | (split <;> rfl)
@[simp] theorem retire_pending (i : Instr) (s : State) : (retire i s).pending = s.pending := by unfold retire; split <;> first | rfl | (split <;> rfl)
@[simp] theorem retire_runMode (i : Instr) (s : State) : (retire i s).runMode = s.runMode := by unfold retire; split <;> first | rfl | (split <;> rfl)
@[simp] theorem retire_wdtEnabled (i : Instr) (s : State) : (retire i s).wdtEnabled = s.wdtEnabled := by unfold retire; split <;> first | rfl | (split <;> rfl)
@[simp] theorem retire_wdtCounter (i : Instr) (s : State) : (retire i s).wdtCounter = s.wdtCounter := by unfold retire; split <;> first | rfl | (split <;> rfl)
@[simp] theorem retire_dmaPlan (i : Instr) (s : State) : (retire i s).dmaPlan = s.dmaPlan := by unfold retire; split <;> first | rfl | (split <;> rfl)
@[simp] theorem retire_dmaSeen (i : Instr) (s : State) : (retire i s).dmaSeen = s.dmaSeen := by unfold retire; split <;> first | rfl | (split <;> rfl)
@[simp] theorem retire_spovReq (i : Instr) (s : State) : (retire i s).spovReq = s.spovReq := by unfold retire; split <;> first | rfl | (split <;> rfl)
@[simp] theorem retire_dirty (i : Instr) (s : State) : (retire i s).dirty = s.dirty := by unfold retire; split <;> first | rfl | (split <;> rfl)
@[simp] theorem retire_dev (i : Instr) (s : State) : (retire i s).dev = s.dev := by unfold retire; split <;> first | rfl | (split <;> rfl)
@[simp] theorem retire_reg (i : Instr) (s : State) (q : Reg) : (retire i s).reg q = s.reg q := by unfold State.reg; simp

/-! ### Fields of literal updates, as `reg` sees them -/

@[simp] theorem with_pc_reg (s : State) (x : Quad) (q : Reg) : State.reg { s with pc := x } q = s.reg q := rfl
@[simp] theorem with_flags_reg (s : State) (x : Byte) (q : Reg) : State.reg { s with flags := x } q = s.reg q := rfl
@[simp] theorem with_sysexcp_reg (s : State) (x : SysExcp) (q : Reg) : State.reg { s with sysexcp := x } q = s.reg q := rfl
@[simp] theorem with_spovReq_reg (s : State) (x : Bool) (q : Reg) : State.reg { s with spovReq := x } q = s.reg q := rfl
@[simp] theorem with_atmCount_reg (s : State) (x : Nat) (q : Reg) : State.reg { s with atmCount := x } q = s.reg q := rfl
@[simp] theorem with_runMode_reg (s : State) (x : RunMode) (q : Reg) : State.reg { s with runMode := x } q = s.reg q := rfl
@[simp] theorem with_extPending_reg (s : State) (x : Bool) (q : Reg) : State.reg { s with extPending := x } q = s.reg q := rfl
@[simp] theorem with_noflagsPending_reg (s : State) (x : Bool) (q : Reg) : State.reg { s with noflagsPending := x } q = s.reg q := rfl
@[simp] theorem with_pending_reg (s : State) (x : List IrqRequest) (q : Reg) : State.reg { s with pending := x } q = s.reg q := rfl
@[simp] theorem with_dmaPlan_reg (s : State) (x : List (List DmaAccess)) (q : Reg) : State.reg { s with dmaPlan := x } q = s.reg q := rfl
@[simp] theorem with_dmaSeen_reg (s : State) (x : List Byte) (q : Reg) : State.reg { s with dmaSeen := x } q = s.reg q := rfl
@[simp] theorem with_mem_reg (s : State) (x : Memory) (q : Reg) : State.reg { s with mem := x } q = s.reg q := rfl

end Sys2Proof.Machine
end

