-- ==== Sys2Proof/Laws/Bytes.lean ====
section
/-! SUPPORT. Bytes of control registers and of memory: what a stored byte changes, and what it leaves. -/

namespace Sys2Proof.Machine

theorem setQuadByte_zero (v : Quad) (b : Byte) : setQuadByte v 0 b = b ++ v.extractLsb' 0 24 := rfl
theorem setQuadByte_one (v : Quad) (b : Byte) :
    setQuadByte v 1 b = v.extractLsb' 24 8 ++ b ++ v.extractLsb' 0 16 := rfl
theorem setQuadByte_two (v : Quad) (b : Byte) :
    setQuadByte v 2 b = v.extractLsb' 16 16 ++ b ++ v.extractLsb' 0 8 := rfl
theorem setQuadByte_three (v : Quad) (b : Byte) : setQuadByte v 3 b = v.extractLsb' 8 24 ++ b := rfl

theorem quadByte_setQuadByte_same (v : Quad) (b : Byte) (i : Nat) (h : i < 4) :
    quadByte (setQuadByte v i b) i = b := by
  have hi : i = 0 ∨ i = 1 ∨ i = 2 ∨ i = 3 := by omega
  unfold quadByte
  rcases hi with rfl | rfl | rfl | rfl <;>
    simp only [setQuadByte_zero, setQuadByte_one, setQuadByte_two, setQuadByte_three] <;> ext k hk <;>
    rw [BitVec.getElem_extractLsb', BitVec.getLsbD_append] <;>
    (try rw [BitVec.getLsbD_append]) <;> simp [hk]

theorem quadByte_setQuadByte_other (v : Quad) (b : Byte) (i j : Nat) (hi : i < 4) (hj : j < 4) (h : i ≠ j) :
    quadByte (setQuadByte v i b) j = quadByte v j := by
  have hi : i = 0 ∨ i = 1 ∨ i = 2 ∨ i = 3 := by omega
  have hj : j = 0 ∨ j = 1 ∨ j = 2 ∨ j = 3 := by omega
  unfold quadByte
  rcases hi with rfl | rfl | rfl | rfl <;> rcases hj with rfl | rfl | rfl | rfl <;> first
    | exact absurd rfl h
    | (simp only [setQuadByte_zero, setQuadByte_one, setQuadByte_two, setQuadByte_three]
       ext k hk
       rw [BitVec.getElem_extractLsb', BitVec.getLsbD_append, BitVec.getElem_extractLsb']
       try rw [BitVec.getLsbD_append]
       simp
       (repeat' split) <;> simp_all <;> first
         | omega
         | (rw [decide_eq_true (by omega), Bool.true_and]; congr 1; omega)
         | (rw [decide_eq_false (by omega), decide_eq_true (by omega)]; rfl))

theorem locate_pcov_lt {d : Device} {a : Quad} {i : Nat} (h : locate d a = .pcov i) : i < 4 := by
  unfold locate at h
  split at h
  · unfold locateIo at h
    repeat' split at h
    all_goals first | (cases h; done) | skip
    rename_i hw _
    simp only [inWindow, Bool.and_eq_true, decide_eq_true_eq] at *
    injection h with h
    omega
  · unfold locateMem at h
    repeat' split at h
    all_goals cases h

theorem locate_spov_lt {d : Device} {a : Quad} {i : Nat} (h : locate d a = .spov i) : i < 4 := by
  unfold locate at h
  split at h
  · unfold locateIo at h
    repeat' split at h
    all_goals first | (cases h; done) | skip
    rename_i hw _
    simp only [inWindow, Bool.and_eq_true, decide_eq_true_eq] at *
    injection h with h
    omega
  · unfold locateMem at h
    repeat' split at h
    all_goals cases h

/-- Two bytes of SYSEXCP are of one layout, the device's, and each is within it. -/
theorem locate_sysexcp {d : Device} {a : Quad} {l : SysExcpLayout} {i : Nat} (h : locate d a = .sysexcp l i) :
    d.sysexcpLayout = some l ∧ i < l.bytes := by
  unfold locate at h
  split at h
  · unfold locateIo at h
    repeat' split at h
    all_goals first | (cases h; done) | skip
    rename_i hl
    injection h with h1 h2
    subst h1
    have := Option.filter_eq_some_iff.1 hl
    simp only [inWindow, Bool.and_eq_true, decide_eq_true_eq] at this
    exact ⟨this.1, by omega⟩
  · unfold locateMem at h
    repeat' split at h
    all_goals cases h

theorem statusBit_clear_other (l : SysExcpLayout) (i j pos : Nat) (v : Byte) (b : Bool) (hi : i < l.bytes)
    (hj : j < l.bytes) (h : i ≠ j) :
    statusBit (sysExcpBase l j) pos (b && !writesOne (sysExcpBase l i) pos v) = statusBit (sysExcpBase l j) pos b := by
  unfold statusBit writesOne inWindow sysExcpBase
  by_cases hp : 8 * (l.bytes - 1 - j) ≤ pos ∧ pos < 8 * (l.bytes - 1 - j) + 8
  · have : ¬(8 * (l.bytes - 1 - i) ≤ pos ∧ pos < 8 * (l.bytes - 1 - i) + 8) := by omega
    have hd : (decide (8 * (l.bytes - 1 - i) ≤ pos) && decide (pos < 8 * (l.bytes - 1 - i) + 8)) = false := by
      simpa using fun h => Nat.not_lt.1 fun h' => this ⟨h, h'⟩
    simp [hd]
  · have hd : (decide (8 * (l.bytes - 1 - j) ≤ pos) && decide (pos < 8 * (l.bytes - 1 - j) + 8)) = false := by
      simpa using fun h => Nat.not_lt.1 fun h' => hp ⟨h, h'⟩
    simp [hd]

/-- A write to one byte of SYSEXCP leaves how the bits that a device adds read in another byte. -/
theorem extraBits_clear_other (l : SysExcpLayout) (i j : Nat) (v : Byte) (ps : List Nat) (hi : i < l.bytes)
    (hj : j < l.bytes) (h : i ≠ j) :
    (ps.filter fun pos => !writesOne (sysExcpBase l i) pos v).foldr
        (fun pos b => statusBit (sysExcpBase l j) pos true ||| b) 0#8
      = ps.foldr (fun pos b => statusBit (sysExcpBase l j) pos true ||| b) 0#8 := by
  induction ps with
  | nil => rfl
  | cons p ps ih =>
    have hp := statusBit_clear_other l i j p v true hi hj h
    rw [List.filter_cons]
    cases hw : writesOne (sysExcpBase l i) p v <;> rw [hw] at hp
    · exact congrArg (_ ||| ·) ih
    · rw [List.foldr_cons, ← hp]
      exact ih.trans (BitVec.zero_or).symm

theorem locate_congr {d : Device} {a b : Quad} (h : physical d a = physical d b) : locate d a = locate d b := by
  unfold locate; rw [h]

/-- Storing a byte leaves every byte at another place as it was, the control registers' bytes among them. -/
theorem byteAt_putByte_other (a b : Quad) (v : Byte) (s : State) (h : locate s.dev b ≠ locate s.dev a) :
    byteAt b (putByte a v s) = byteAt b s := by
  have key : ∀ la lb, locate s.dev a = la → locate s.dev b = lb → byteAt b (putByte a v s) = byteAt b s := by
    intro la lb ha hb
    have hd : (putByte a v s).dev = s.dev := putByte_dev a v s
    unfold byteAt
    rw [hd, hb]
    unfold putByte
    rw [ha]
    cases la <;> cases lb <;> first | rfl | (rw [ha, hb] at h; exact absurd rfl h) | skip
    · rename_i i j
      exact quadByte_setQuadByte_other _ _ _ _ (locate_pcov_lt ha) (locate_pcov_lt hb) fun e => h (by rw [ha, hb, e])
    · rename_i i j
      exact quadByte_setQuadByte_other _ _ _ _ (locate_spov_lt ha) (locate_spov_lt hb) fun e => h (by rw [ha, hb, e])
    · rename_i l i l' j
      obtain ⟨h1, hi⟩ := locate_sysexcp ha
      obtain ⟨h2, hj⟩ := locate_sysexcp hb
      obtain rfl : l = l' := by rw [h1] at h2; injection h2
      have hij : i ≠ j := fun e => h (by rw [ha, hb, e])
      simp only [sysExcpByte, clearSysExcp, statusBit_clear_other l i j _ v _ hi hj hij,
        extraBits_clear_other l i j v _ hi hj hij]
    · rename_i p q
      refine Memory.read_write_other p q v s.mem fun e => h ?_
      have h1 := locate_eq_memory ha
      have h2 := locate_eq_readOnly hb
      exact locate_congr (by rw [← h1.1, ← h2.1, e])
    · rename_i p q
      exact Memory.read_write_other p q v s.mem fun e => h (by rw [ha, hb, e])
  exact key _ _ rfl rfl

/-! ### Two bytes of a datum stored in either order -/

theorem setQuadByte_comm (v : Quad) (b c : Byte) {i j : Nat} (hi : i < 4) (hj : j < 4) (h : i ≠ j) :
    setQuadByte (setQuadByte v i b) j c = setQuadByte (setQuadByte v j c) i b := by
  have hi : i = 0 ∨ i = 1 ∨ i = 2 ∨ i = 3 := by omega
  have hj : j = 0 ∨ j = 1 ∨ j = 2 ∨ j = 3 := by omega
  rcases hi with rfl | rfl | rfl | rfl <;> rcases hj with rfl | rfl | rfl | rfl <;> first
    | exact absurd rfl h
    | (simp only [setQuadByte_zero, setQuadByte_one, setQuadByte_two, setQuadByte_three]
       ext k hk
       simp only [BitVec.getElem_append, BitVec.getElem_extractLsb', BitVec.getLsbD_append, BitVec.getLsbD_extractLsb']
       grind)

theorem clearSysExcp_comm (l : SysExcpLayout) (i j : Nat) (v w : Byte) (x : SysExcp) :
    clearSysExcp l i v (clearSysExcp l j w x) = clearSysExcp l j w (clearSysExcp l i v x) := by
  simp only [clearSysExcp, List.filter_filter, Bool.and_right_comm, SysExcp.mk.injEq, true_and]
  exact List.filter_congr fun p _ => Bool.and_comm _ _

/-- Two bytes at two addresses may be stored in either order. -/
theorem putByte_comm {a b : Quad} {s : State} (hw : Memory.wf s.mem) (h : physical s.dev a ≠ physical s.dev b) (v w : Byte) :
    putByte a v (putByte b w s) = putByte b w (putByte a v s) := by
  by_cases he : locate s.dev a = locate s.dev b
  · rcases locate_eq_cases h he with h1 | h1 | h1 <;>
      (have h2 := he ▸ h1; simp only [putByte, h1, h2])
  · cases h1 : locate s.dev a <;> cases h2 : locate s.dev b <;> simp only [putByte, h1, h2]
    case pcov.pcov i j =>
      rw [setQuadByte_comm _ _ _ (locate_pcov_lt h2) (locate_pcov_lt h1) fun e => he (by rw [h1, h2, e])]
    case spov.spov i j =>
      rw [setQuadByte_comm _ _ _ (locate_spov_lt h2) (locate_spov_lt h1) fun e => he (by rw [h1, h2, e])]
    case flags.flags => exact absurd (h1.trans h2.symm) he
    case cpuctl.cpuctl => exact absurd (h1.trans h2.symm) he
    case sysexcp.sysexcp l i m j =>
      obtain rfl := Option.some.inj ((locate_sysexcp h1).1.symm.trans (locate_sysexcp h2).1)
      rw [clearSysExcp_comm]
    case memory.memory p q =>
      have hpq : p ≠ q := fun e => he (by rw [h1, h2, e])
      rw [Memory.write_comm hpq v w hw, noteAddress_comm]

end Sys2Proof.Machine
end

