-- ==== Sys2Proof/Laws/Ops.lean ====
section
/-! SUPPORT. For each shared operation, what it can do: proofs cite these instead of unfolding the operation. -/

namespace Sys2Proof.Machine

/-! ### Outcomes in sequence -/

@[simp] theorem andThen_next {α β : Type} (a : α) (k : α → Out β) : andThen (.next a) k = k a := rfl
@[simp] theorem andThen_fault {α β : Type} (r : Fault) (k : α → Out β) : andThen (.fault r) k = .fault r := rfl
@[simp] theorem andThen_refused {α β : Type} (r : Refusal) (k : α → Out β) :
    andThen (.refused r) k = .refused r := rfl

/-- Two operations in sequence answer a value exactly when both do. -/
theorem andThen_eq_next {α β : Type} {x : Out α} {k : α → Out β} {b : β} :
    andThen x k = .next b ↔ ∃ a, x = .next a ∧ k a = .next b := by
  cases x with
  | next a => simp
  | fault r => simp
  | refused r => simp

theorem unlessStop_eq_next {α : Type} {x : Option Stop} {a b : α} :
    unlessStop x a = .next b ↔ x = none ∧ a = b := by
  cases x with
  | none => simp [unlessStop]
  | some r => cases r <;> simp [unlessStop]

/-! ### Registers -/

theorem reg_writeReg (s : State) (r q : Reg) (v : Quad) :
    (s.writeReg r v).reg q = if q = r then v else s.reg q := by
  unfold State.reg State.writeReg
  simp only [Vector.getElem_set]
  by_cases h : q = r
  · simp [h]
  · have : ¬r.toNat = q.toNat := fun e => h (BitVec.eq_of_toNat_eq e.symm)
    simp [h, this]

@[simp] theorem reg_writeReg_same (s : State) (r : Reg) (v : Quad) : (s.writeReg r v).reg r = v := by
  simp [reg_writeReg]

theorem reg_writeReg_other (s : State) {r q : Reg} (v : Quad) (h : q ≠ r) : (s.writeReg r v).reg q = s.reg q := by
  simp [reg_writeReg, h]

@[simp] theorem writeReg_spovReq (s : State) (r : Reg) (v : Quad) :
    (s.writeReg r v).spovReq = (s.spovReq || (r == spReg && decide (v < s.spov))) := rfl

theorem setFlags_flags (s : State) (p : FlagPatch) :
    (s.setFlags p).flags = if s.noflagsPending then s.flags else applyPatch p s.flags := by
  unfold State.setFlags; split <;> rfl

@[simp] theorem sp_writeReg (s : State) (v : Quad) : (s.writeReg spReg v).sp = v := reg_writeReg_same s spReg v

/-! ### Addresses of a datum -/

theorem bytesFrom_one (a : Quad) : bytesFrom 1 a = [a] := by
  simp [bytesFrom, List.range, List.range.loop]
theorem bytesFrom_two (a : Quad) : bytesFrom 2 a = [a, a + 1#32] := by
  simp [bytesFrom, List.range, List.range.loop]
theorem bytesFrom_four (a : Quad) : bytesFrom 4 a = [a, a + 1#32, a + 2#32, a + 3#32] := by
  simp [bytesFrom, List.range, List.range.loop]

/-- The first bytes of an address's neighbourhood are distinct bytes of memory. -/
theorem physical_add_ne (d : Device) (a : Quad) {i j : Nat} (hi : i < 4) (hj : j < 4) (h : i ≠ j) :
    physical d (a + BitVec.ofNat 32 i) ≠ physical d (a + BitVec.ofNat 32 j) := by
  unfold physical
  have hs : d.addrWidth.space = 0x1000000 ∨ d.addrWidth.space = 0x100000000 := by
    cases d.addrWidth
    · exact .inl rfl
    · exact .inr rfl
  simp only [BitVec.toNat_add, BitVec.toNat_ofNat]
  rcases hs with hs | hs <;> rw [hs] <;> omega

/-! ### Reading and writing memory -/

theorem readMem_eq_next {z : Size} {a : Quad} {s : State} {v : BitVec (Size.bits z)} :
    readMem z a s = .next v ↔ Readable s.dev z a ∧ v = valueAt z a s := by
  unfold readMem Readable
  rw [unlessStop_eq_next, List.findSome?_eq_none_iff]
  exact and_congr_right fun _ => eq_comm

theorem readMem_of_readable {z : Size} {a : Quad} {s : State} (h : Readable s.dev z a) :
    readMem z a s = .next (valueAt z a s) := readMem_eq_next.2 ⟨h, rfl⟩

theorem writeMem_eq_next {z : Size} {a : Quad} {v : BitVec (Size.bits z)} {s t : State} :
    writeMem z a v s = .next t ↔ Writable s.dev z a ∧ t = putValue z a v s := by
  unfold writeMem Writable
  rw [unlessStop_eq_next, List.findSome?_eq_none_iff]
  exact and_congr_right fun _ => eq_comm

theorem writeMem_of_writable {z : Size} {a : Quad} {v : BitVec (Size.bits z)} {s : State}
    (h : Writable s.dev z a) : writeMem z a v s = .next (putValue z a v s) := writeMem_eq_next.2 ⟨h, rfl⟩

/-- What can be written can be read. -/
theorem Writable.readable {d : Device} {z : Size} {a : Quad} (h : Writable d z a) : Readable d z a := by
  intro b hb
  have := h b hb
  unfold writeStop at this
  unfold readStop
  revert this
  cases locate d b <;> simp

/-- A store leaves every byte that is at no place of its bytes. -/
theorem byteAt_putValue_other (z : Size) (a b : Quad) (v : BitVec (Size.bits z)) (s : State)
    (h : ∀ c ∈ bytesFrom (Size.bytes z) a, locate s.dev b ≠ locate s.dev c) :
    byteAt b (putValue z a v s) = byteAt b s := by
  cases z
  · rw [show Size.bytes .byte = 1 from rfl, bytesFrom_one] at h
    exact byteAt_putByte_other _ _ _ _ (h a (by simp))
  · rw [show Size.bytes .word = 2 from rfl, bytesFrom_two] at h
    simp only [List.mem_cons, List.not_mem_nil, or_false, forall_eq_or_imp, forall_eq] at h
    unfold putValue
    rw [byteAt_putByte_other _ _ _ _ (by simpa using h.2), byteAt_putByte_other _ _ _ _ h.1]
  · rw [show Size.bytes .quad = 4 from rfl, bytesFrom_four] at h
    simp only [List.mem_cons, List.not_mem_nil, or_false, forall_eq_or_imp, forall_eq] at h
    obtain ⟨h0, h1, h2, h3⟩ := h
    unfold putValue
    rw [byteAt_putByte_other _ _ _ _ (by simpa using h3), byteAt_putByte_other _ _ _ _ (by simpa using h2),
      byteAt_putByte_other _ _ _ _ (by simpa using h1), byteAt_putByte_other _ _ _ _ h0]

theorem putValue_mem_wf (z : Size) (a : Quad) (v : BitVec (Size.bits z)) (s : State) (h : Memory.wf s.mem) :
    Memory.wf (putValue z a v s).mem := by
  cases z <;> unfold putValue <;> repeat' first | exact h | apply putByte_mem_wf

theorem putValue_mem_outsideIo (z : Size) (a : Quad) (v : BitVec (Size.bits z)) (s : State)
    (h : ∀ c ∈ s.mem, c.1 < ioBase s.dev) : ∀ c ∈ (putValue z a v s).mem, c.1 < ioBase s.dev := by
  have step : ∀ (b : Quad) (w : Byte) (t : State), t.dev = s.dev → (∀ c ∈ t.mem, c.1 < ioBase s.dev) →
      (putByte b w t).dev = s.dev ∧ ∀ c ∈ (putByte b w t).mem, c.1 < ioBase s.dev := by
    intro b w t hd ht
    refine ⟨by rw [putByte_dev, hd], ?_⟩
    rw [← hd] at ht ⊢
    exact putByte_mem_outsideIo b w t ht
  cases z
  · exact (step _ _ _ rfl h).2
  · exact (step _ _ _ (step _ _ _ rfl h).1 (step _ _ _ rfl h).2).2
  · have h1 := step a (byteOf v 3) s rfl h
    have h2 := step (a + 1#32) (byteOf v 2) _ h1.1 h1.2
    have h3 := step (a + 2#32) (byteOf v 1) _ h2.1 h2.2
    exact (step (a + 3#32) (byteOf v 0) _ h3.1 h3.2).2

theorem locate_ne_of_physical {d : Device} {x y : Quad} {p : Nat} (hx : locate d x = .memory p)
    (h : physical d y ≠ physical d x) : locate d y ≠ locate d x := by
  intro e
  rw [hx] at e
  exact h ((locate_eq_memory e).1.symm.trans (locate_eq_memory hx).1)

/-- A stored byte of memory reads as the byte of the value that belongs there. -/
theorem byteAt_putValue_at (z : Size) (a : Quad) (v : BitVec (Size.bits z)) (s : State) (hw : Memory.wf s.mem)
    (k : Nat) (hk : k < Size.bytes z) {p : Nat} (hp : locate s.dev (a + BitVec.ofNat 32 k) = .memory p) :
    byteAt (a + BitVec.ofNat 32 k) (putValue z a v s) = byteOf v (Size.bytes z - 1 - k) := by
  have z0 : a + BitVec.ofNat 32 0 = a := by simp
  have ne : ∀ j, j < 4 → j ≠ k → k < 4 → locate s.dev (a + BitVec.ofNat 32 k) ≠ locate s.dev (a + BitVec.ofNat 32 j) :=
    fun j hj hjk hk4 => (locate_ne_of_physical hp (physical_add_ne _ _ hj hk4 hjk)).symm
  have ne0 : k < 4 → 0 ≠ k → locate s.dev (a + BitVec.ofNat 32 k) ≠ locate s.dev a := fun hk4 h => by
    have := ne 0 (by omega) h hk4; rwa [z0] at this
  cases z
  · obtain rfl : k = 0 := by simp only [Size.bytes] at hk; omega
    rw [z0] at hp ⊢
    exact byteAt_putByte_same _ _ _ hw hp
  · have hk : k = 0 ∨ k = 1 := by simp only [Size.bytes] at hk; omega
    unfold putValue
    rcases hk with rfl | rfl
    · rw [byteAt_putByte_other _ _ _ _ (by simpa using ne 1 (by omega) (by omega) (by omega))]
      rw [z0] at hp ⊢
      exact byteAt_putByte_same _ _ _ hw hp
    · exact byteAt_putByte_same _ _ _ (putByte_mem_wf _ _ _ hw) (by simpa using hp)
  · have hk : k = 0 ∨ k = 1 ∨ k = 2 ∨ k = 3 := by simp only [Size.bytes] at hk; omega
    unfold putValue
    have w1 := putByte_mem_wf a (byteOf v 3) s hw
    have w2 := putByte_mem_wf (a + 1#32) (byteOf v 2) _ w1
    have w3 := putByte_mem_wf (a + 2#32) (byteOf v 1) _ w2
    rcases hk with rfl | rfl | rfl | rfl
    · rw [byteAt_putByte_other _ _ _ _ (by simpa using ne 3 (by omega) (by omega) (by omega)),
        byteAt_putByte_other _ _ _ _ (by simpa using ne 2 (by omega) (by omega) (by omega)),
        byteAt_putByte_other _ _ _ _ (by simpa using ne 1 (by omega) (by omega) (by omega))]
      rw [z0] at hp ⊢
      exact byteAt_putByte_same _ _ _ hw hp
    · rw [byteAt_putByte_other _ _ _ _ (by simpa using ne 3 (by omega) (by omega) (by omega)),
        byteAt_putByte_other _ _ _ _ (by simpa using ne 2 (by omega) (by omega) (by omega))]
      exact byteAt_putByte_same _ _ _ w1 (by simpa using hp)
    · rw [byteAt_putByte_other _ _ _ _ (by simpa using ne 3 (by omega) (by omega) (by omega))]
      exact byteAt_putByte_same _ _ _ w2 (by simpa using hp)
    · exact byteAt_putByte_same _ _ _ w3 (by simpa using hp)

theorem byte_whole (v : BitVec 8) : byteOf v 0 = v := by
  unfold byteOf
  ext k hk
  simp

theorem bytes_join_word (v : BitVec 16) : byteOf v 1 ++ byteOf v 0 = v := by
  unfold byteOf
  apply BitVec.eq_of_getLsbD_eq
  intro k hk
  rw [BitVec.getLsbD_append]
  simp only [BitVec.getLsbD_extractLsb']
  split
  all_goals (rw [decide_eq_true (by omega), Bool.true_and]; congr 1; omega)

theorem bytes_join_quad (v : BitVec 32) : byteOf v 3 ++ byteOf v 2 ++ byteOf v 1 ++ byteOf v 0 = v := by
  unfold byteOf
  apply BitVec.eq_of_getLsbD_eq
  intro k hk
  rw [BitVec.getLsbD_append, BitVec.getLsbD_append, BitVec.getLsbD_append]
  simp only [BitVec.getLsbD_extractLsb']
  repeat' split
  all_goals (rw [decide_eq_true (by omega), Bool.true_and]; congr 1; omega)

/-- Reading back a value whose bytes all went to memory (R95, R96). -/
theorem valueAt_putValue (z : Size) (a : Quad) (v : BitVec (Size.bits z)) (s : State) (hw : Memory.wf s.mem)
    (h : ∀ b ∈ bytesFrom (Size.bytes z) a, ∃ p, locate s.dev b = .memory p) :
    valueAt z a (putValue z a v s) = v := by
  have at_ : ∀ k, k < Size.bytes z →
      byteAt (a + BitVec.ofNat 32 k) (putValue z a v s) = byteOf v (Size.bytes z - 1 - k) := by
    intro k hk
    obtain ⟨p, hp⟩ := h (a + BitVec.ofNat 32 k) (List.mem_map.2 ⟨k, List.mem_range.2 hk, rfl⟩)
    exact byteAt_putValue_at z a v s hw k hk hp
  cases z
  · have := at_ 0 (by decide)
    simp only [BitVec.add_zero] at this
    unfold valueAt
    rw [this]
    exact byte_whole v
  · have h0 := at_ 0 (by decide)
    have h1 := at_ 1 (by decide)
    simp only [BitVec.add_zero] at h0 h1
    unfold valueAt
    rw [h0, h1]
    exact bytes_join_word v
  · have h0 := at_ 0 (by decide)
    have h1 := at_ 1 (by decide)
    have h2 := at_ 2 (by decide)
    have h3 := at_ 3 (by decide)
    simp only [BitVec.add_zero] at h0 h1 h2 h3
    unfold valueAt
    rw [h0, h1, h2, h3]
    exact bytes_join_quad v

end Sys2Proof.Machine
end

