-- ==== Sys2Proof/Laws/Bus.lean ====
section
/-! SUPPORT. The CPU's accesses and the DMA controller between them: where it does nothing they are `MemRead` and `MemWrite`,
and in any state what the DMA controller can change. -/

namespace Sys2Proof.Machine

/-! ### Where the DMA controller does nothing -/

theorem Undisturbed.of_eq {s t : State} (h : Undisturbed s) (ha : t.atmCount = s.atmCount) (hp : t.dmaPlan = s.dmaPlan) :
    Undisturbed t := by
  unfold Undisturbed; rw [ha, hp]; exact h

theorem Undisturbed.writeReg {s : State} (h : Undisturbed s) (r : Reg) (v : Quad) : Undisturbed (s.writeReg r v) := h
theorem Undisturbed.putByte {s : State} (h : Undisturbed s) (a : Quad) (v : Byte) : Undisturbed (putByte a v s) :=
  h.of_eq (putByte_atmCount a v s) (putByte_dmaPlan a v s)
theorem Undisturbed.putValue {s : State} (h : Undisturbed s) (z : Size) (a : Quad) (v : BitVec (Size.bits z)) :
    Undisturbed (putValue z a v s) := h.of_eq (putValue_atmCount z a v s) (putValue_dmaPlan z a v s)

/-- No turn of the DMA controller. -/
theorem dmaTurn_undisturbed {s : State} (h : Undisturbed s) : dmaTurn s = .next s := by
  unfold dmaTurn
  split
  · next h0 =>
    have hp : s.dmaPlan = [] := h.resolve_left (absurd h0)
    rw [hp]
    show (.next { s with dmaPlan := [] } : Out State) = .next s
    rw [← hp]
  · rfl

theorem busByte_undisturbed {s : State} (h : Undisturbed s) (a : Quad) : busByte a s = .next (byteAt a s, s) := by
  unfold busByte; rw [dmaTurn_undisturbed h]; rfl

theorem busPut_undisturbed {s : State} (h : Undisturbed s) (a : Quad) (v : Byte) : busPut a v s = .next (putByte a v s) := by
  unfold busPut; rw [dmaTurn_undisturbed h]; rfl

theorem busGet_undisturbed {s : State} (h : Undisturbed s) (z : Size) (a : Quad) :
    busGet z a s = .next (valueAt z a s, s) := by
  cases z
  · exact busByte_undisturbed h a
  · simp [busGet, valueAt, busByte_undisturbed h]
  · simp [busGet, valueAt, busByte_undisturbed h]

theorem busSet_undisturbed {s : State} (h : Undisturbed s) (z : Size) (a : Quad) (v : BitVec (Size.bits z)) :
    busSet z a v s = .next (putValue z a v s) := by
  have h1 : ∀ b w, Undisturbed (putByte b w s) := h.putByte
  cases z
  · exact busPut_undisturbed h a _
  · simp only [busSet, busPut_undisturbed h, andThen_next, busPut_undisturbed (h1 _ _)]; rfl
  · have h2 : ∀ b w c x, Undisturbed (putByte b w (putByte c x s)) := fun b w c x => (h1 c x).putByte b w
    simp only [busSet, busPut_undisturbed h, andThen_next, busPut_undisturbed (h1 _ _), busPut_undisturbed (h2 _ _ _ _),
      busPut_undisturbed ((h2 _ _ _ _).putByte _ _)]
    rfl

/-- Undisturbed, the bytes of a push stored from the low-order one up leave what a store leaves. -/
theorem busSetDown_undisturbed {s : State} (h : Undisturbed s) (hw : Memory.wf s.mem) (z : Size) (a : Quad)
    (v : BitVec (Size.bits z)) : busSetDown z a v s = .next (putValue z a v s) := by
  have h1 : ∀ b w, Undisturbed (putByte b w s) := h.putByte
  have ne : ∀ {i j : Nat}, i < 4 → j < 4 → i ≠ j →
      physical s.dev (a + BitVec.ofNat 32 i) ≠ physical s.dev (a + BitVec.ofNat 32 j) := physical_add_ne s.dev a
  have z0 : a + BitVec.ofNat 32 0 = a := by simp
  have swap : ∀ {i j : Nat} (b c : Byte) (t : State), t.dev = s.dev → Memory.wf t.mem → i < 4 → j < 4 → i ≠ j →
      putByte (a + BitVec.ofNat 32 i) b (putByte (a + BitVec.ofNat 32 j) c t)
        = putByte (a + BitVec.ofNat 32 j) c (putByte (a + BitVec.ofNat 32 i) b t) := fun b c t hd ht hi hj hij =>
    putByte_comm ht (by rw [hd]; exact ne hi hj hij) b c
  have dev : ∀ b w t, (putByte b w t).dev = t.dev := putByte_dev
  have wf : ∀ b w t, Memory.wf t.mem → Memory.wf (putByte b w t).mem := putByte_mem_wf
  cases z
  · exact busPut_undisturbed h a _
  · simp only [busSetDown, busPut_undisturbed h, andThen_next, busPut_undisturbed (h1 _ _), putValue]
    have := swap (i := 0) (j := 1) (byteOf v 1) (byteOf v 0) s rfl hw (by omega) (by omega) (by omega)
    rw [z0] at this
    rw [this]
  · have h2 : ∀ b w c x, Undisturbed (putByte b w (putByte c x s)) := fun b w c x => (h1 c x).putByte b w
    simp only [busSetDown, busPut_undisturbed h, andThen_next, busPut_undisturbed (h1 _ _), busPut_undisturbed (h2 _ _ _ _),
      busPut_undisturbed ((h2 _ _ _ _).putByte _ _), putValue]
    have s0 := fun j b c t hd ht => swap (i := 0) (j := j) b c t hd ht (by omega)
    rw [z0] at s0
    have s1 := fun j b c t hd ht => swap (i := 1) (j := j) b c t hd ht (by omega)
    have s2 := fun j b c t hd ht => swap (i := 2) (j := j) b c t hd ht (by omega)
    rw [s0 1 _ _ _ (by simp only [dev]) (wf _ _ _ (wf _ _ _ hw)) (by omega) (by omega),
      s0 2 _ _ _ (by simp only [dev]) (wf _ _ _ hw) (by omega) (by omega), s0 3 _ _ _ rfl hw (by omega) (by omega),
      s1 2 _ _ _ (by simp only [dev]) (wf _ _ _ (wf _ _ _ hw)) (by omega) (by omega),
      s1 3 _ _ _ (by simp only [dev]) (wf _ _ _ hw) (by omega) (by omega),
      s2 3 _ _ _ (by simp only [dev]) (wf _ _ _ (wf _ _ _ hw)) (by omega) (by omega)]

/-- Undisturbed, an instruction reads as `MemRead` says. -/
theorem busRead_undisturbed {s : State} (h : Undisturbed s) (z : Size) (a : Quad) :
    busRead z a s = andThen (readMem z a s) fun v => .next (v, s) := by
  unfold busRead readMem
  cases (bytesFrom (Size.bytes z) a).findSome? (readStop s.dev) with
  | none => exact busGet_undisturbed h z a
  | some r => cases r <;> rfl

/-- Undisturbed, an instruction writes as `MemWrite` says. -/
theorem busWrite_undisturbed {s : State} (h : Undisturbed s) (z : Size) (a : Quad) (v : BitVec (Size.bits z)) :
    busWrite z a v s = writeMem z a v s := by
  unfold busWrite writeMem
  cases (bytesFrom (Size.bytes z) a).findSome? (writeStop s.dev) with
  | none => exact busSet_undisturbed h z a v
  | some r => cases r <;> rfl

/-- Undisturbed, the store of a push writes as `MemWrite` says. -/
theorem busWriteDown_undisturbed {s : State} (h : Undisturbed s) (hw : Memory.wf s.mem) (z : Size) (a : Quad)
    (v : BitVec (Size.bits z)) : busWriteDown z a v s = writeMem z a v s := by
  unfold busWriteDown writeMem
  cases (bytesFrom (Size.bytes z) a).findSome? (writeStop s.dev) with
  | none => exact busSetDown_undisturbed h hw z a v
  | some r => cases r <;> rfl

/-- Undisturbed, the store of a push leaves the plan and the record of the DMA controller, whatever memory it is in. -/
theorem busWriteDown_quiet {z : Size} {a : Quad} {v : BitVec (Size.bits z)} {s t : State} (h : Undisturbed s)
    (ht : busWriteDown z a v s = .next t) : t.dmaPlan = s.dmaPlan ∧ t.dmaSeen = s.dmaSeen := by
  obtain ⟨_, -, ht⟩ := andThen_eq_next.1 ht
  have one : ∀ {b w u x}, Undisturbed u → busPut b w u = .next x →
      Undisturbed x ∧ x.dmaPlan = u.dmaPlan ∧ x.dmaSeen = u.dmaSeen := by
    intro b w u x hu hx
    rw [busPut_undisturbed hu] at hx
    injection hx with hx; subst hx
    exact ⟨hu.putByte b w, putByte_dmaPlan b w u, putByte_dmaSeen b w u⟩
  cases z
  · exact (one h ht).2
  · obtain ⟨u, h0, ht⟩ := andThen_eq_next.1 ht
    have k0 := one h h0
    have k := one k0.1 ht
    exact ⟨k.2.1.trans k0.2.1, k.2.2.trans k0.2.2⟩
  · obtain ⟨u0, h0, ht⟩ := andThen_eq_next.1 ht
    obtain ⟨u1, h1, ht⟩ := andThen_eq_next.1 ht
    obtain ⟨u2, h2, ht⟩ := andThen_eq_next.1 ht
    have k0 := one h h0
    have k1 := one k0.1 h1
    have k2 := one k1.1 h2
    have k := one k2.1 ht
    exact ⟨k.2.1.trans (k2.2.1.trans (k1.2.1.trans k0.2.1)), k.2.2.trans (k2.2.2.trans (k1.2.2.trans k0.2.2))⟩

theorem busPush_undisturbed {s : State} (h : Undisturbed s) (hw : Memory.wf s.mem) (z : Size) (v : BitVec (Size.bits z)) :
    busPush z v s = push z v s := busWriteDown_undisturbed (h.writeReg _ _) hw z _ v

theorem busJump_undisturbed {s : State} (h : Undisturbed s) (v : Quad) : busJump v s = jumpThrough v s := by
  unfold busJump jumpThrough
  rw [busRead_undisturbed h]
  cases readMem .quad v s <;> rfl

theorem busRead_eq_next {z : Size} {a : Quad} {s : State} (h : Undisturbed s) {x : BitVec (Size.bits z) × State} :
    busRead z a s = .next x ↔ Readable s.dev z a ∧ x = (valueAt z a s, s) := by
  rw [busRead_undisturbed h, andThen_eq_next]
  simp only [readMem_eq_next, Host.Outcome.next.injEq]
  constructor
  · rintro ⟨v, ⟨hr, rfl⟩, rfl⟩; exact ⟨hr, rfl⟩
  · rintro ⟨hr, rfl⟩; exact ⟨_, ⟨hr, rfl⟩, rfl⟩

theorem busRead_of_readable {z : Size} {a : Quad} {s : State} (h : Undisturbed s) (hr : Readable s.dev z a) :
    busRead z a s = .next (valueAt z a s, s) := (busRead_eq_next h).2 ⟨hr, rfl⟩

theorem busWrite_eq_next {z : Size} {a : Quad} {v : BitVec (Size.bits z)} {s t : State} (h : Undisturbed s) :
    busWrite z a v s = .next t ↔ Writable s.dev z a ∧ t = putValue z a v s := by
  rw [busWrite_undisturbed h]; exact writeMem_eq_next

theorem busWrite_of_writable {z : Size} {a : Quad} {v : BitVec (Size.bits z)} {s : State} (h : Undisturbed s)
    (hw : Writable s.dev z a) : busWrite z a v s = .next (putValue z a v s) := (busWrite_eq_next h).2 ⟨hw, rfl⟩

theorem busWriteDown_of_writable {z : Size} {a : Quad} {v : BitVec (Size.bits z)} {s : State} (h : Undisturbed s)
    (hm : Memory.wf s.mem) (hw : Writable s.dev z a) : busWriteDown z a v s = .next (putValue z a v s) := by
  rw [busWriteDown_undisturbed h hm]; exact writeMem_of_writable hw

/-- Undisturbed, both bytes of a word are fetched from the state as it is. -/
theorem fetchWord_eq_next {a : Quad} {s : State} (h : Undisturbed s) {x : Word × State} :
    fetchWord a s = .next x ↔ a.getLsbD 0 = false ∧ fetchStop s a = none ∧ fetchStop s (a + 1#32) = none ∧
      x = (byteAt a s ++ byteAt (a + 1#32) s, s) := by
  have one : ∀ b, fetchByte b s = unlessStop (fetchStop s b) (byteAt b s, s) := by
    intro b; unfold fetchByte; rw [dmaTurn_undisturbed h]; rfl
  unfold fetchWord
  cases a.getLsbD 0
  · rw [if_neg (by simp), andThen_eq_next, one]
    simp only [unlessStop_eq_next, true_and]
    constructor
    · rintro ⟨b, ⟨h1, rfl⟩, h2⟩
      obtain ⟨c, h3, h4⟩ := andThen_eq_next.1 h2
      rw [one, unlessStop_eq_next] at h3
      obtain ⟨h3, rfl⟩ := h3
      injection h4 with h4
      exact ⟨h1, h3, h4.symm⟩
    · rintro ⟨h1, h3, rfl⟩
      refine ⟨_, ⟨h1, rfl⟩, ?_⟩
      simp only [one, h3]; rfl
  · simp

/-! ### What the DMA controller can change -/

/-- Memory, the control registers, the stores noted for R108, and the DMA controller's own plan and record are all that may
differ; memory keeps its form and its place, and non-volatile memory its bytes. -/
structure MemoryOnly (s t : State) : Prop where
  same : ∃ flags pcov spov dmabw sysexcp mem dirty plan seen, t = { s with
    flags := flags, pcov := pcov, spov := spov, dmabw := dmabw, sysexcp := sysexcp, mem := mem, dirty := dirty,
    dmaPlan := plan, dmaSeen := seen }
  wf : Memory.wf s.mem → Memory.wf t.mem
  outsideIo : (∀ c ∈ s.mem, c.1 < ioBase s.dev) → ∀ c ∈ t.mem, c.1 < ioBase s.dev
  rom : ∀ (a : Quad) (p : Nat), locate s.dev a = .readOnly p → byteAt a t = byteAt a s

theorem MemoryOnly.refl (s : State) : MemoryOnly s s := ⟨⟨_, _, _, _, _, _, _, _, _, rfl⟩, id, id, fun _ _ _ => rfl⟩

theorem MemoryOnly.dev {s t : State} (h : MemoryOnly s t) : t.dev = s.dev := by
  obtain ⟨⟨_, _, _, _, _, _, _, _, _, rfl⟩, _, _, _⟩ := h; rfl

theorem MemoryOnly.trans {s t u : State} (h : MemoryOnly s t) (k : MemoryOnly t u) : MemoryOnly s u where
  same := by
    obtain ⟨⟨_, _, _, _, _, _, _, _, _, rfl⟩, _, _, _⟩ := h
    obtain ⟨⟨_, _, _, _, _, _, _, _, _, rfl⟩, _, _, _⟩ := k
    exact ⟨_, _, _, _, _, _, _, _, _, rfl⟩
  wf := fun x => k.wf (h.wf x)
  outsideIo := fun x => by have := k.outsideIo; rw [h.dev] at this; exact this (h.outsideIo x)
  rom := fun a p x => (k.rom a p (by rw [h.dev]; exact x)).trans (h.rom a p x)

/-- A store of one byte. -/
theorem putByte_memoryOnly (a : Quad) (v : Byte) (s : State) : MemoryOnly s (putByte a v s) where
  same := by
    unfold putByte
    generalize locate s.dev a = l
    cases l <;> exact ⟨_, _, _, _, _, _, _, _, _, rfl⟩
  wf := putByte_mem_wf a v s
  outsideIo := putByte_mem_outsideIo a v s
  rom := by
    intro b p hb
    by_cases e : locate s.dev b = locate s.dev a
    · unfold putByte
      rw [show locate s.dev a = .readOnly p from e ▸ hb]
    · exact byteAt_putByte_other a b v s e

theorem dmaAccess_memoryOnly {x : DmaAccess} {s t : State} (h : dmaAccess x s = .next t) : MemoryOnly s t := by
  unfold dmaAccess at h
  split at h <;> split at h
  · obtain ⟨b, -, h⟩ := andThen_eq_next.1 h
    injection h with h
    subst h
    exact ⟨⟨_, _, _, _, _, _, _, _, _, rfl⟩, id, id, fun _ _ _ => rfl⟩
  · injection h with h; subst h; exact .refl _
  · obtain ⟨-, rfl⟩ := writeMem_eq_next.1 h
    exact putByte_memoryOnly _ _ _
  · injection h with h; subst h; exact .refl _

theorem dmaAccesses_memoryOnly {l : List DmaAccess} {s t : State} (h : dmaAccesses l s = .next t) : MemoryOnly s t := by
  induction l generalizing s with
  | nil => injection h with h; subst h; exact .refl _
  | cons x xs ih =>
    obtain ⟨u, h1, h2⟩ := andThen_eq_next.1 h
    exact (dmaAccess_memoryOnly h1).trans (ih h2)

theorem dmaTurn_memoryOnly {s t : State} (h : dmaTurn s = .next t) : MemoryOnly s t := by
  unfold dmaTurn at h
  split at h
  · exact MemoryOnly.trans (t := { s with dmaPlan := s.dmaPlan.tail })
      ⟨⟨_, _, _, _, _, _, _, _, _, rfl⟩, id, id, fun _ _ _ => rfl⟩ (dmaAccesses_memoryOnly h)
  · injection h with h; subst h; exact .refl _

theorem busByte_memoryOnly {a : Quad} {s : State} {x : Byte × State} (h : busByte a s = .next x) : MemoryOnly s x.2 := by
  obtain ⟨t, h1, h2⟩ := andThen_eq_next.1 h
  injection h2 with h2; subst h2
  exact dmaTurn_memoryOnly h1

theorem busPut_memoryOnly {a : Quad} {v : Byte} {s t : State} (h : busPut a v s = .next t) : MemoryOnly s t := by
  obtain ⟨u, h1, h2⟩ := andThen_eq_next.1 h
  injection h2 with h2; subst h2
  exact (dmaTurn_memoryOnly h1).trans (putByte_memoryOnly _ _ _)

theorem busGet_memoryOnly {z : Size} {a : Quad} {s : State} {x : BitVec (Size.bits z) × State}
    (h : busGet z a s = .next x) : MemoryOnly s x.2 := by
  cases z
  · exact busByte_memoryOnly h
  · obtain ⟨b0, h0, h⟩ := andThen_eq_next.1 h
    obtain ⟨b1, h1, h⟩ := andThen_eq_next.1 h
    injection h with h; subst h
    exact (busByte_memoryOnly h0).trans (busByte_memoryOnly h1)
  · obtain ⟨b0, h0, h⟩ := andThen_eq_next.1 h
    obtain ⟨b1, h1, h⟩ := andThen_eq_next.1 h
    obtain ⟨b2, h2, h⟩ := andThen_eq_next.1 h
    obtain ⟨b3, h3, h⟩ := andThen_eq_next.1 h
    injection h with h; subst h
    exact (busByte_memoryOnly h0).trans ((busByte_memoryOnly h1).trans
      ((busByte_memoryOnly h2).trans (busByte_memoryOnly h3)))

theorem busSet_memoryOnly {z : Size} {a : Quad} {v : BitVec (Size.bits z)} {s t : State} (h : busSet z a v s = .next t) :
    MemoryOnly s t := by
  cases z
  · exact busPut_memoryOnly h
  · obtain ⟨u, h0, h⟩ := andThen_eq_next.1 h
    exact (busPut_memoryOnly h0).trans (busPut_memoryOnly h)
  · obtain ⟨u0, h0, h⟩ := andThen_eq_next.1 h
    obtain ⟨u1, h1, h⟩ := andThen_eq_next.1 h
    obtain ⟨u2, h2, h⟩ := andThen_eq_next.1 h
    exact (busPut_memoryOnly h0).trans ((busPut_memoryOnly h1).trans ((busPut_memoryOnly h2).trans (busPut_memoryOnly h)))

theorem busSetDown_memoryOnly {z : Size} {a : Quad} {v : BitVec (Size.bits z)} {s t : State}
    (h : busSetDown z a v s = .next t) : MemoryOnly s t := by
  cases z
  · exact busPut_memoryOnly h
  · obtain ⟨u, h0, h⟩ := andThen_eq_next.1 h
    exact (busPut_memoryOnly h0).trans (busPut_memoryOnly h)
  · obtain ⟨u0, h0, h⟩ := andThen_eq_next.1 h
    obtain ⟨u1, h1, h⟩ := andThen_eq_next.1 h
    obtain ⟨u2, h2, h⟩ := andThen_eq_next.1 h
    exact (busPut_memoryOnly h0).trans ((busPut_memoryOnly h1).trans ((busPut_memoryOnly h2).trans (busPut_memoryOnly h)))

/-- A read of an instruction, whatever the DMA controller does between its bytes. -/
theorem busRead_memoryOnly {z : Size} {a : Quad} {s : State} {x : BitVec (Size.bits z) × State}
    (h : busRead z a s = .next x) : MemoryOnly s x.2 := by
  obtain ⟨_, -, h⟩ := andThen_eq_next.1 h
  exact busGet_memoryOnly h

/-- A write of an instruction, whatever the DMA controller does between its bytes. -/
theorem busWrite_memoryOnly {z : Size} {a : Quad} {v : BitVec (Size.bits z)} {s t : State} (h : busWrite z a v s = .next t) :
    MemoryOnly s t := by
  obtain ⟨_, -, h⟩ := andThen_eq_next.1 h
  exact busSet_memoryOnly h

/-- The store of a push, whatever the DMA controller does between its bytes. -/
theorem busWriteDown_memoryOnly {z : Size} {a : Quad} {v : BitVec (Size.bits z)} {s t : State}
    (h : busWriteDown z a v s = .next t) : MemoryOnly s t := by
  obtain ⟨_, -, h⟩ := andThen_eq_next.1 h
  exact busSetDown_memoryOnly h

theorem fetchByte_memoryOnly {a : Quad} {s : State} {x : Byte × State} (h : fetchByte a s = .next x) : MemoryOnly s x.2 := by
  obtain ⟨t, h1, h2⟩ := andThen_eq_next.1 h
  obtain ⟨-, rfl⟩ := unlessStop_eq_next.1 h2
  exact dmaTurn_memoryOnly h1

theorem fetchWord_memoryOnly {a : Quad} {s : State} {x : Word × State} (h : fetchWord a s = .next x) :
    a.getLsbD 0 = false ∧ MemoryOnly s x.2 := by
  unfold fetchWord at h
  split at h
  · cases h
  · next ha =>
    obtain ⟨b0, h0, h⟩ := andThen_eq_next.1 h
    obtain ⟨b1, h1, h⟩ := andThen_eq_next.1 h
    injection h with h; subst h
    exact ⟨Bool.not_eq_true _ ▸ ha, (fetchByte_memoryOnly h0).trans (fetchByte_memoryOnly h1)⟩

theorem fetchIf_memoryOnly {b : Bool} {a : Quad} {s : State} {x : Word × State} (h : fetchIf b a s = .next x) :
    MemoryOnly s x.2 := by
  unfold fetchIf at h
  split at h
  · exact (fetchWord_memoryOnly h).2
  · injection h with h; subst h; exact .refl _

/-- The fetch of the words after word 0, whatever the DMA controller does between their bytes. -/
theorem fetchRest_memoryOnly {w0 : Word} {s : State} {x : Fetched × State} (h : fetchRest w0 s = .next x) :
    x.1.w0 = w0 ∧ MemoryOnly s x.2 := by
  obtain ⟨w1, h1, h⟩ := andThen_eq_next.1 h
  obtain ⟨w2, h2, h⟩ := andThen_eq_next.1 h
  injection h with h; subst h
  exact ⟨rfl, (fetchIf_memoryOnly h1).trans (fetchIf_memoryOnly h2)⟩

end Sys2Proof.Machine
end

