-- ==== Sys2Proof/Laws/Encoding.lean ====
section
/-! SUPPORT. The fields of a word put together from its parts, one lemma per field and layout, so that no proof about an
encoding unfolds a field. -/

namespace Sys2Proof

/-! ### Fields of word 0 -/

@[simp] theorem nib3_append_12_4 (a : BitVec 12) (b : BitVec 4) :
    nib3 (a ++ b) = a.extractLsb' 8 4 := by
  unfold nib3
  apply BitVec.eq_of_getLsbD_eq
  intro i hi
  rw [BitVec.getLsbD_extractLsb', decide_eq_true hi, Bool.true_and]
  repeat rw [BitVec.getLsbD_append]
  (repeat' split) <;> first
    | (exfalso; omega)
    | (congr 1 <;> omega)
    | (rw [BitVec.getLsbD_extractLsb', decide_eq_true (by omega), Bool.true_and] <;> congr 1 <;> omega)

@[simp] theorem nib2_append_12_4 (a : BitVec 12) (b : BitVec 4) :
    nib2 (a ++ b) = a.extractLsb' 4 4 := by
  unfold nib2
  apply BitVec.eq_of_getLsbD_eq
  intro i hi
  rw [BitVec.getLsbD_extractLsb', decide_eq_true hi, Bool.true_and]
  repeat rw [BitVec.getLsbD_append]
  (repeat' split) <;> first
    | (exfalso; omega)
    | (congr 1 <;> omega)
    | (rw [BitVec.getLsbD_extractLsb', decide_eq_true (by omega), Bool.true_and] <;> congr 1 <;> omega)

@[simp] theorem nib1_append_12_4 (a : BitVec 12) (b : BitVec 4) :
    nib1 (a ++ b) = a.extractLsb' 0 4 := by
  unfold nib1
  apply BitVec.eq_of_getLsbD_eq
  intro i hi
  rw [BitVec.getLsbD_extractLsb', decide_eq_true hi, Bool.true_and]
  repeat rw [BitVec.getLsbD_append]
  (repeat' split) <;> first
    | (exfalso; omega)
    | (congr 1 <;> omega)
    | (rw [BitVec.getLsbD_extractLsb', decide_eq_true (by omega), Bool.true_and] <;> congr 1 <;> omega)

@[simp] theorem nib0_append_12_4 (a : BitVec 12) (b : BitVec 4) :
    nib0 (a ++ b) = b := by
  unfold nib0
  apply BitVec.eq_of_getLsbD_eq
  intro i hi
  rw [BitVec.getLsbD_extractLsb', decide_eq_true hi, Bool.true_and]
  repeat rw [BitVec.getLsbD_append]
  (repeat' split) <;> first
    | (exfalso; omega)
    | (congr 1 <;> omega)
    | (rw [BitVec.getLsbD_extractLsb', decide_eq_true (by omega), Bool.true_and] <;> congr 1 <;> omega)

@[simp] theorem nib3_append_8_4_4 (a : BitVec 8) (b : BitVec 4) (c : BitVec 4) :
    nib3 (a ++ b ++ c) = a.extractLsb' 4 4 := by
  unfold nib3
  apply BitVec.eq_of_getLsbD_eq
  intro i hi
  rw [BitVec.getLsbD_extractLsb', decide_eq_true hi, Bool.true_and]
  repeat rw [BitVec.getLsbD_append]
  (repeat' split) <;> first
    | (exfalso; omega)
    | (congr 1 <;> omega)
    | (rw [BitVec.getLsbD_extractLsb', decide_eq_true (by omega), Bool.true_and] <;> congr 1 <;> omega)

@[simp] theorem nib2_append_8_4_4 (a : BitVec 8) (b : BitVec 4) (c : BitVec 4) :
    nib2 (a ++ b ++ c) = a.extractLsb' 0 4 := by
  unfold nib2
  apply BitVec.eq_of_getLsbD_eq
  intro i hi
  rw [BitVec.getLsbD_extractLsb', decide_eq_true hi, Bool.true_and]
  repeat rw [BitVec.getLsbD_append]
  (repeat' split) <;> first
    | (exfalso; omega)
    | (congr 1 <;> omega)
    | (rw [BitVec.getLsbD_extractLsb', decide_eq_true (by omega), Bool.true_and] <;> congr 1 <;> omega)

@[simp] theorem nib1_append_8_4_4 (a : BitVec 8) (b : BitVec 4) (c : BitVec 4) :
    nib1 (a ++ b ++ c) = b := by
  unfold nib1
  apply BitVec.eq_of_getLsbD_eq
  intro i hi
  rw [BitVec.getLsbD_extractLsb', decide_eq_true hi, Bool.true_and]
  repeat rw [BitVec.getLsbD_append]
  (repeat' split) <;> first
    | (exfalso; omega)
    | (congr 1 <;> omega)
    | (rw [BitVec.getLsbD_extractLsb', decide_eq_true (by omega), Bool.true_and] <;> congr 1 <;> omega)

@[simp] theorem nib0_append_8_4_4 (a : BitVec 8) (b : BitVec 4) (c : BitVec 4) :
    nib0 (a ++ b ++ c) = c := by
  unfold nib0
  apply BitVec.eq_of_getLsbD_eq
  intro i hi
  rw [BitVec.getLsbD_extractLsb', decide_eq_true hi, Bool.true_and]
  repeat rw [BitVec.getLsbD_append]
  (repeat' split) <;> first
    | (exfalso; omega)
    | (congr 1 <;> omega)
    | (rw [BitVec.getLsbD_extractLsb', decide_eq_true (by omega), Bool.true_and] <;> congr 1 <;> omega)

@[simp] theorem low8_append_8_4_4 (a : BitVec 8) (b : BitVec 4) (c : BitVec 4) :
    low8 (a ++ b ++ c) = b ++ c := by
  unfold low8
  apply BitVec.eq_of_getLsbD_eq
  intro i hi
  rw [BitVec.getLsbD_extractLsb', decide_eq_true hi, Bool.true_and]
  repeat rw [BitVec.getLsbD_append]
  (repeat' split) <;> first
    | (exfalso; omega)
    | (congr 1 <;> omega)
    | (rw [BitVec.getLsbD_extractLsb', decide_eq_true (by omega), Bool.true_and] <;> congr 1 <;> omega)

@[simp] theorem nib3_append_8_8 (a : BitVec 8) (b : BitVec 8) :
    nib3 (a ++ b) = a.extractLsb' 4 4 := by
  unfold nib3
  apply BitVec.eq_of_getLsbD_eq
  intro i hi
  rw [BitVec.getLsbD_extractLsb', decide_eq_true hi, Bool.true_and]
  repeat rw [BitVec.getLsbD_append]
  (repeat' split) <;> first
    | (exfalso; omega)
    | (congr 1 <;> omega)
    | (rw [BitVec.getLsbD_extractLsb', decide_eq_true (by omega), Bool.true_and] <;> congr 1 <;> omega)

@[simp] theorem nib2_append_8_8 (a : BitVec 8) (b : BitVec 8) :
    nib2 (a ++ b) = a.extractLsb' 0 4 := by
  unfold nib2
  apply BitVec.eq_of_getLsbD_eq
  intro i hi
  rw [BitVec.getLsbD_extractLsb', decide_eq_true hi, Bool.true_and]
  repeat rw [BitVec.getLsbD_append]
  (repeat' split) <;> first
    | (exfalso; omega)
    | (congr 1 <;> omega)
    | (rw [BitVec.getLsbD_extractLsb', decide_eq_true (by omega), Bool.true_and] <;> congr 1 <;> omega)

@[simp] theorem nib1_append_8_8 (a : BitVec 8) (b : BitVec 8) :
    nib1 (a ++ b) = b.extractLsb' 4 4 := by
  unfold nib1
  apply BitVec.eq_of_getLsbD_eq
  intro i hi
  rw [BitVec.getLsbD_extractLsb', decide_eq_true hi, Bool.true_and]
  repeat rw [BitVec.getLsbD_append]
  (repeat' split) <;> first
    | (exfalso; omega)
    | (congr 1 <;> omega)
    | (rw [BitVec.getLsbD_extractLsb', decide_eq_true (by omega), Bool.true_and] <;> congr 1 <;> omega)

@[simp] theorem nib0_append_8_8 (a : BitVec 8) (b : BitVec 8) :
    nib0 (a ++ b) = b.extractLsb' 0 4 := by
  unfold nib0
  apply BitVec.eq_of_getLsbD_eq
  intro i hi
  rw [BitVec.getLsbD_extractLsb', decide_eq_true hi, Bool.true_and]
  repeat rw [BitVec.getLsbD_append]
  (repeat' split) <;> first
    | (exfalso; omega)
    | (congr 1 <;> omega)
    | (rw [BitVec.getLsbD_extractLsb', decide_eq_true (by omega), Bool.true_and] <;> congr 1 <;> omega)

@[simp] theorem low8_append_8_8 (a : BitVec 8) (b : BitVec 8) :
    low8 (a ++ b) = b := by
  unfold low8
  apply BitVec.eq_of_getLsbD_eq
  intro i hi
  rw [BitVec.getLsbD_extractLsb', decide_eq_true hi, Bool.true_and]
  repeat rw [BitVec.getLsbD_append]
  (repeat' split) <;> first
    | (exfalso; omega)
    | (congr 1 <;> omega)
    | (rw [BitVec.getLsbD_extractLsb', decide_eq_true (by omega), Bool.true_and] <;> congr 1 <;> omega)

@[simp] theorem nib3_append_6_6_4 (a : BitVec 6) (b : BitVec 6) (c : BitVec 4) :
    nib3 (a ++ b ++ c) = a.extractLsb' 2 4 := by
  unfold nib3
  apply BitVec.eq_of_getLsbD_eq
  intro i hi
  rw [BitVec.getLsbD_extractLsb', decide_eq_true hi, Bool.true_and]
  repeat rw [BitVec.getLsbD_append]
  (repeat' split) <;> first
    | (exfalso; omega)
    | (congr 1 <;> omega)
    | (rw [BitVec.getLsbD_extractLsb', decide_eq_true (by omega), Bool.true_and] <;> congr 1 <;> omega)

@[simp] theorem nib2_append_6_6_4 (a : BitVec 6) (b : BitVec 6) (c : BitVec 4) :
    nib2 (a ++ b ++ c) = a.extractLsb' 0 2 ++ b.extractLsb' 4 2 := by
  unfold nib2
  apply BitVec.eq_of_getLsbD_eq
  intro i hi
  rw [BitVec.getLsbD_extractLsb', decide_eq_true hi, Bool.true_and]
  repeat rw [BitVec.getLsbD_append]
  (repeat' split) <;> first
    | (exfalso; omega)
    | (congr 1 <;> omega)
    | (rw [BitVec.getLsbD_extractLsb', decide_eq_true (by omega), Bool.true_and] <;> congr 1 <;> omega)

@[simp] theorem nib1_append_6_6_4 (a : BitVec 6) (b : BitVec 6) (c : BitVec 4) :
    nib1 (a ++ b ++ c) = b.extractLsb' 0 4 := by
  unfold nib1
  apply BitVec.eq_of_getLsbD_eq
  intro i hi
  rw [BitVec.getLsbD_extractLsb', decide_eq_true hi, Bool.true_and]
  repeat rw [BitVec.getLsbD_append]
  (repeat' split) <;> first
    | (exfalso; omega)
    | (congr 1 <;> omega)
    | (rw [BitVec.getLsbD_extractLsb', decide_eq_true (by omega), Bool.true_and] <;> congr 1 <;> omega)

@[simp] theorem nib0_append_6_6_4 (a : BitVec 6) (b : BitVec 6) (c : BitVec 4) :
    nib0 (a ++ b ++ c) = c := by
  unfold nib0
  apply BitVec.eq_of_getLsbD_eq
  intro i hi
  rw [BitVec.getLsbD_extractLsb', decide_eq_true hi, Bool.true_and]
  repeat rw [BitVec.getLsbD_append]
  (repeat' split) <;> first
    | (exfalso; omega)
    | (congr 1 <;> omega)
    | (rw [BitVec.getLsbD_extractLsb', decide_eq_true (by omega), Bool.true_and] <;> congr 1 <;> omega)

@[simp] theorem mid6_append_6_6_4 (a : BitVec 6) (b : BitVec 6) (c : BitVec 4) :
    mid6 (a ++ b ++ c) = b := by
  unfold mid6
  apply BitVec.eq_of_getLsbD_eq
  intro i hi
  rw [BitVec.getLsbD_extractLsb', decide_eq_true hi, Bool.true_and]
  repeat rw [BitVec.getLsbD_append]
  (repeat' split) <;> first
    | (exfalso; omega)
    | (congr 1 <;> omega)
    | (rw [BitVec.getLsbD_extractLsb', decide_eq_true (by omega), Bool.true_and] <;> congr 1 <;> omega)

@[simp] theorem nib3_append_4_4_4_4 (a : BitVec 4) (b : BitVec 4) (c : BitVec 4) (d : BitVec 4) :
    nib3 (a ++ b ++ c ++ d) = a := by
  unfold nib3
  apply BitVec.eq_of_getLsbD_eq
  intro i hi
  rw [BitVec.getLsbD_extractLsb', decide_eq_true hi, Bool.true_and]
  repeat rw [BitVec.getLsbD_append]
  (repeat' split) <;> first
    | (exfalso; omega)
    | (congr 1 <;> omega)
    | (rw [BitVec.getLsbD_extractLsb', decide_eq_true (by omega), Bool.true_and] <;> congr 1 <;> omega)

@[simp] theorem nib2_append_4_4_4_4 (a : BitVec 4) (b : BitVec 4) (c : BitVec 4) (d : BitVec 4) :
    nib2 (a ++ b ++ c ++ d) = b := by
  unfold nib2
  apply BitVec.eq_of_getLsbD_eq
  intro i hi
  rw [BitVec.getLsbD_extractLsb', decide_eq_true hi, Bool.true_and]
  repeat rw [BitVec.getLsbD_append]
  (repeat' split) <;> first
    | (exfalso; omega)
    | (congr 1 <;> omega)
    | (rw [BitVec.getLsbD_extractLsb', decide_eq_true (by omega), Bool.true_and] <;> congr 1 <;> omega)

@[simp] theorem nib1_append_4_4_4_4 (a : BitVec 4) (b : BitVec 4) (c : BitVec 4) (d : BitVec 4) :
    nib1 (a ++ b ++ c ++ d) = c := by
  unfold nib1
  apply BitVec.eq_of_getLsbD_eq
  intro i hi
  rw [BitVec.getLsbD_extractLsb', decide_eq_true hi, Bool.true_and]
  repeat rw [BitVec.getLsbD_append]
  (repeat' split) <;> first
    | (exfalso; omega)
    | (congr 1 <;> omega)
    | (rw [BitVec.getLsbD_extractLsb', decide_eq_true (by omega), Bool.true_and] <;> congr 1 <;> omega)

@[simp] theorem nib0_append_4_4_4_4 (a : BitVec 4) (b : BitVec 4) (c : BitVec 4) (d : BitVec 4) :
    nib0 (a ++ b ++ c ++ d) = d := by
  unfold nib0
  apply BitVec.eq_of_getLsbD_eq
  intro i hi
  rw [BitVec.getLsbD_extractLsb', decide_eq_true hi, Bool.true_and]
  repeat rw [BitVec.getLsbD_append]
  (repeat' split) <;> first
    | (exfalso; omega)
    | (congr 1 <;> omega)
    | (rw [BitVec.getLsbD_extractLsb', decide_eq_true (by omega), Bool.true_and] <;> congr 1 <;> omega)

@[simp] theorem nib3_append_4_4_8 (a : BitVec 4) (b : BitVec 4) (c : BitVec 8) :
    nib3 (a ++ b ++ c) = a := by
  unfold nib3
  apply BitVec.eq_of_getLsbD_eq
  intro i hi
  rw [BitVec.getLsbD_extractLsb', decide_eq_true hi, Bool.true_and]
  repeat rw [BitVec.getLsbD_append]
  (repeat' split) <;> first
    | (exfalso; omega)
    | (congr 1 <;> omega)
    | (rw [BitVec.getLsbD_extractLsb', decide_eq_true (by omega), Bool.true_and] <;> congr 1 <;> omega)

@[simp] theorem nib2_append_4_4_8 (a : BitVec 4) (b : BitVec 4) (c : BitVec 8) :
    nib2 (a ++ b ++ c) = b := by
  unfold nib2
  apply BitVec.eq_of_getLsbD_eq
  intro i hi
  rw [BitVec.getLsbD_extractLsb', decide_eq_true hi, Bool.true_and]
  repeat rw [BitVec.getLsbD_append]
  (repeat' split) <;> first
    | (exfalso; omega)
    | (congr 1 <;> omega)
    | (rw [BitVec.getLsbD_extractLsb', decide_eq_true (by omega), Bool.true_and] <;> congr 1 <;> omega)

@[simp] theorem nib1_append_4_4_8 (a : BitVec 4) (b : BitVec 4) (c : BitVec 8) :
    nib1 (a ++ b ++ c) = c.extractLsb' 4 4 := by
  unfold nib1
  apply BitVec.eq_of_getLsbD_eq
  intro i hi
  rw [BitVec.getLsbD_extractLsb', decide_eq_true hi, Bool.true_and]
  repeat rw [BitVec.getLsbD_append]
  (repeat' split) <;> first
    | (exfalso; omega)
    | (congr 1 <;> omega)
    | (rw [BitVec.getLsbD_extractLsb', decide_eq_true (by omega), Bool.true_and] <;> congr 1 <;> omega)

@[simp] theorem nib0_append_4_4_8 (a : BitVec 4) (b : BitVec 4) (c : BitVec 8) :
    nib0 (a ++ b ++ c) = c.extractLsb' 0 4 := by
  unfold nib0
  apply BitVec.eq_of_getLsbD_eq
  intro i hi
  rw [BitVec.getLsbD_extractLsb', decide_eq_true hi, Bool.true_and]
  repeat rw [BitVec.getLsbD_append]
  (repeat' split) <;> first
    | (exfalso; omega)
    | (congr 1 <;> omega)
    | (rw [BitVec.getLsbD_extractLsb', decide_eq_true (by omega), Bool.true_and] <;> congr 1 <;> omega)

@[simp] theorem low8_append_4_4_8 (a : BitVec 4) (b : BitVec 4) (c : BitVec 8) :
    low8 (a ++ b ++ c) = c := by
  unfold low8
  apply BitVec.eq_of_getLsbD_eq
  intro i hi
  rw [BitVec.getLsbD_extractLsb', decide_eq_true hi, Bool.true_and]
  repeat rw [BitVec.getLsbD_append]
  (repeat' split) <;> first
    | (exfalso; omega)
    | (congr 1 <;> omega)
    | (rw [BitVec.getLsbD_extractLsb', decide_eq_true (by omega), Bool.true_and] <;> congr 1 <;> omega)

@[simp] theorem nib3_append_4_12 (a : BitVec 4) (b : BitVec 12) :
    nib3 (a ++ b) = a := by
  unfold nib3
  apply BitVec.eq_of_getLsbD_eq
  intro i hi
  rw [BitVec.getLsbD_extractLsb', decide_eq_true hi, Bool.true_and]
  repeat rw [BitVec.getLsbD_append]
  (repeat' split) <;> first
    | (exfalso; omega)
    | (congr 1 <;> omega)
    | (rw [BitVec.getLsbD_extractLsb', decide_eq_true (by omega), Bool.true_and] <;> congr 1 <;> omega)

@[simp] theorem nib2_append_4_12 (a : BitVec 4) (b : BitVec 12) :
    nib2 (a ++ b) = b.extractLsb' 8 4 := by
  unfold nib2
  apply BitVec.eq_of_getLsbD_eq
  intro i hi
  rw [BitVec.getLsbD_extractLsb', decide_eq_true hi, Bool.true_and]
  repeat rw [BitVec.getLsbD_append]
  (repeat' split) <;> first
    | (exfalso; omega)
    | (congr 1 <;> omega)
    | (rw [BitVec.getLsbD_extractLsb', decide_eq_true (by omega), Bool.true_and] <;> congr 1 <;> omega)

@[simp] theorem nib1_append_4_12 (a : BitVec 4) (b : BitVec 12) :
    nib1 (a ++ b) = b.extractLsb' 4 4 := by
  unfold nib1
  apply BitVec.eq_of_getLsbD_eq
  intro i hi
  rw [BitVec.getLsbD_extractLsb', decide_eq_true hi, Bool.true_and]
  repeat rw [BitVec.getLsbD_append]
  (repeat' split) <;> first
    | (exfalso; omega)
    | (congr 1 <;> omega)
    | (rw [BitVec.getLsbD_extractLsb', decide_eq_true (by omega), Bool.true_and] <;> congr 1 <;> omega)

@[simp] theorem nib0_append_4_12 (a : BitVec 4) (b : BitVec 12) :
    nib0 (a ++ b) = b.extractLsb' 0 4 := by
  unfold nib0
  apply BitVec.eq_of_getLsbD_eq
  intro i hi
  rw [BitVec.getLsbD_extractLsb', decide_eq_true hi, Bool.true_and]
  repeat rw [BitVec.getLsbD_append]
  (repeat' split) <;> first
    | (exfalso; omega)
    | (congr 1 <;> omega)
    | (rw [BitVec.getLsbD_extractLsb', decide_eq_true (by omega), Bool.true_and] <;> congr 1 <;> omega)

@[simp] theorem low12_append_4_12 (a : BitVec 4) (b : BitVec 12) :
    low12 (a ++ b) = b := by
  unfold low12
  apply BitVec.eq_of_getLsbD_eq
  intro i hi
  rw [BitVec.getLsbD_extractLsb', decide_eq_true hi, Bool.true_and]
  repeat rw [BitVec.getLsbD_append]
  (repeat' split) <;> first
    | (exfalso; omega)
    | (congr 1 <;> omega)
    | (rw [BitVec.getLsbD_extractLsb', decide_eq_true (by omega), Bool.true_and] <;> congr 1 <;> omega)

@[simp] theorem nib3_append_7_5_4 (a : BitVec 7) (b : BitVec 5) (c : BitVec 4) :
    nib3 (a ++ b ++ c) = a.extractLsb' 3 4 := by
  unfold nib3
  apply BitVec.eq_of_getLsbD_eq
  intro i hi
  rw [BitVec.getLsbD_extractLsb', decide_eq_true hi, Bool.true_and]
  repeat rw [BitVec.getLsbD_append]
  (repeat' split) <;> first
    | (exfalso; omega)
    | (congr 1 <;> omega)
    | (rw [BitVec.getLsbD_extractLsb', decide_eq_true (by omega), Bool.true_and] <;> congr 1 <;> omega)

@[simp] theorem nib2_append_7_5_4 (a : BitVec 7) (b : BitVec 5) (c : BitVec 4) :
    nib2 (a ++ b ++ c) = a.extractLsb' 0 3 ++ b.extractLsb' 4 1 := by
  unfold nib2
  apply BitVec.eq_of_getLsbD_eq
  intro i hi
  rw [BitVec.getLsbD_extractLsb', decide_eq_true hi, Bool.true_and]
  repeat rw [BitVec.getLsbD_append]
  (repeat' split) <;> first
    | (exfalso; omega)
    | (congr 1 <;> omega)
    | (rw [BitVec.getLsbD_extractLsb', decide_eq_true (by omega), Bool.true_and] <;> congr 1 <;> omega)

@[simp] theorem nib1_append_7_5_4 (a : BitVec 7) (b : BitVec 5) (c : BitVec 4) :
    nib1 (a ++ b ++ c) = b.extractLsb' 0 4 := by
  unfold nib1
  apply BitVec.eq_of_getLsbD_eq
  intro i hi
  rw [BitVec.getLsbD_extractLsb', decide_eq_true hi, Bool.true_and]
  repeat rw [BitVec.getLsbD_append]
  (repeat' split) <;> first
    | (exfalso; omega)
    | (congr 1 <;> omega)
    | (rw [BitVec.getLsbD_extractLsb', decide_eq_true (by omega), Bool.true_and] <;> congr 1 <;> omega)

@[simp] theorem nib0_append_7_5_4 (a : BitVec 7) (b : BitVec 5) (c : BitVec 4) :
    nib0 (a ++ b ++ c) = c := by
  unfold nib0
  apply BitVec.eq_of_getLsbD_eq
  intro i hi
  rw [BitVec.getLsbD_extractLsb', decide_eq_true hi, Bool.true_and]
  repeat rw [BitVec.getLsbD_append]
  (repeat' split) <;> first
    | (exfalso; omega)
    | (congr 1 <;> omega)
    | (rw [BitVec.getLsbD_extractLsb', decide_eq_true (by omega), Bool.true_and] <;> congr 1 <;> omega)

@[simp] theorem mid5_append_7_5_4 (a : BitVec 7) (b : BitVec 5) (c : BitVec 4) :
    mid5 (a ++ b ++ c) = b := by
  unfold mid5
  apply BitVec.eq_of_getLsbD_eq
  intro i hi
  rw [BitVec.getLsbD_extractLsb', decide_eq_true hi, Bool.true_and]
  repeat rw [BitVec.getLsbD_append]
  (repeat' split) <;> first
    | (exfalso; omega)
    | (congr 1 <;> omega)
    | (rw [BitVec.getLsbD_extractLsb', decide_eq_true (by omega), Bool.true_and] <;> congr 1 <;> omega)

@[simp] theorem nib3_append_11_1_4 (a : BitVec 11) (b : BitVec 1) (c : BitVec 4) :
    nib3 (a ++ b ++ c) = a.extractLsb' 7 4 := by
  unfold nib3
  apply BitVec.eq_of_getLsbD_eq
  intro i hi
  rw [BitVec.getLsbD_extractLsb', decide_eq_true hi, Bool.true_and]
  repeat rw [BitVec.getLsbD_append]
  (repeat' split) <;> first
    | (exfalso; omega)
    | (congr 1 <;> omega)
    | (rw [BitVec.getLsbD_extractLsb', decide_eq_true (by omega), Bool.true_and] <;> congr 1 <;> omega)

@[simp] theorem nib2_append_11_1_4 (a : BitVec 11) (b : BitVec 1) (c : BitVec 4) :
    nib2 (a ++ b ++ c) = a.extractLsb' 3 4 := by
  unfold nib2
  apply BitVec.eq_of_getLsbD_eq
  intro i hi
  rw [BitVec.getLsbD_extractLsb', decide_eq_true hi, Bool.true_and]
  repeat rw [BitVec.getLsbD_append]
  (repeat' split) <;> first
    | (exfalso; omega)
    | (congr 1 <;> omega)
    | (rw [BitVec.getLsbD_extractLsb', decide_eq_true (by omega), Bool.true_and] <;> congr 1 <;> omega)

@[simp] theorem nib1_append_11_1_4 (a : BitVec 11) (b : BitVec 1) (c : BitVec 4) :
    nib1 (a ++ b ++ c) = a.extractLsb' 0 3 ++ b := by
  unfold nib1
  apply BitVec.eq_of_getLsbD_eq
  intro i hi
  rw [BitVec.getLsbD_extractLsb', decide_eq_true hi, Bool.true_and]
  repeat rw [BitVec.getLsbD_append]
  (repeat' split) <;> first
    | (exfalso; omega)
    | (congr 1 <;> omega)
    | (rw [BitVec.getLsbD_extractLsb', decide_eq_true (by omega), Bool.true_and] <;> congr 1 <;> omega)

@[simp] theorem nib0_append_11_1_4 (a : BitVec 11) (b : BitVec 1) (c : BitVec 4) :
    nib0 (a ++ b ++ c) = c := by
  unfold nib0
  apply BitVec.eq_of_getLsbD_eq
  intro i hi
  rw [BitVec.getLsbD_extractLsb', decide_eq_true hi, Bool.true_and]
  repeat rw [BitVec.getLsbD_append]
  (repeat' split) <;> first
    | (exfalso; omega)
    | (congr 1 <;> omega)
    | (rw [BitVec.getLsbD_extractLsb', decide_eq_true (by omega), Bool.true_and] <;> congr 1 <;> omega)

/-! ### Fields of word 1 -/

@[simp] theorem low14_append_2_14 (a : BitVec 2) (b : BitVec 14) :
    low14 (a ++ b) = b := by
  unfold low14
  apply BitVec.eq_of_getLsbD_eq
  intro i hi
  rw [BitVec.getLsbD_extractLsb', decide_eq_true hi, Bool.true_and]
  repeat rw [BitVec.getLsbD_append]
  (repeat' split) <;> first
    | (exfalso; omega)
    | (congr 1 <;> omega)
    | (rw [BitVec.getLsbD_extractLsb', decide_eq_true (by omega), Bool.true_and] <;> congr 1 <;> omega)

@[simp] theorem top2_append_2_14 (a : BitVec 2) (b : BitVec 14) :
    top2 (a ++ b) = a := by
  unfold top2
  apply BitVec.eq_of_getLsbD_eq
  intro i hi
  rw [BitVec.getLsbD_extractLsb', decide_eq_true hi, Bool.true_and]
  repeat rw [BitVec.getLsbD_append]
  (repeat' split) <;> first
    | (exfalso; omega)
    | (congr 1 <;> omega)
    | (rw [BitVec.getLsbD_extractLsb', decide_eq_true (by omega), Bool.true_and] <;> congr 1 <;> omega)

@[simp] theorem low13_append_3_13 (a : BitVec 3) (b : BitVec 13) :
    low13 (a ++ b) = b := by
  unfold low13
  apply BitVec.eq_of_getLsbD_eq
  intro i hi
  rw [BitVec.getLsbD_extractLsb', decide_eq_true hi, Bool.true_and]
  repeat rw [BitVec.getLsbD_append]
  (repeat' split) <;> first
    | (exfalso; omega)
    | (congr 1 <;> omega)
    | (rw [BitVec.getLsbD_extractLsb', decide_eq_true (by omega), Bool.true_and] <;> congr 1 <;> omega)

@[simp] theorem top3_append_3_13 (a : BitVec 3) (b : BitVec 13) :
    top3 (a ++ b) = a := by
  unfold top3
  apply BitVec.eq_of_getLsbD_eq
  intro i hi
  rw [BitVec.getLsbD_extractLsb', decide_eq_true hi, Bool.true_and]
  repeat rw [BitVec.getLsbD_append]
  (repeat' split) <;> first
    | (exfalso; omega)
    | (congr 1 <;> omega)
    | (rw [BitVec.getLsbD_extractLsb', decide_eq_true (by omega), Bool.true_and] <;> congr 1 <;> omega)

/-- The two halves of a 32-bit operand put together again. -/
@[simp] theorem append_halves (v : BitVec 32) : v.extractLsb' 16 16 ++ v.extractLsb' 0 16 = v := by
  apply BitVec.eq_of_getLsbD_eq
  intro i hi
  rw [BitVec.getLsbD_append]
  split
  · rw [BitVec.getLsbD_extractLsb', decide_eq_true ‹_›, Bool.true_and] <;> congr 1 <;> omega
  · rw [BitVec.getLsbD_extractLsb', decide_eq_true (by omega), Bool.true_and] <;> congr 1 <;> omega

/-- The two parts of a 24-bit offset put together again. -/
@[simp] theorem append_parts24 (v : BitVec 24) : v.extractLsb' 16 8 ++ v.extractLsb' 0 16 = v := by
  apply BitVec.eq_of_getLsbD_eq
  intro i hi
  rw [BitVec.getLsbD_append]
  split
  · rw [BitVec.getLsbD_extractLsb', decide_eq_true ‹_›, Bool.true_and] <;> congr 1 <;> omega
  · rw [BitVec.getLsbD_extractLsb', decide_eq_true (by omega), Bool.true_and] <;> congr 1 <;> omega

@[simp] theorem quadWords_length (v : BitVec 32) : (quadWords v).length = 2 := rfl

/-! ### The length of an encoding is the length its first word says (R122) -/

theorem encodeBop_length (op : Bop) (f : BopForm) :
    (encodeBop op f).length = instrWords ((encodeBop op f).headD 0#16) := by
  cases f with
  | load k rd m => cases m <;> cases op <;> cases k <;> simp [encodeBop, instrWords, BitVec.msb_eq_getLsbD_last, Bop.bits, loadSel]
  | store z m rs => cases m <;> cases op <;> cases z <;> simp [encodeBop, instrWords, BitVec.msb_eq_getLsbD_last, Bop.bits, storeSel]
  | _ => cases op <;> simp [encodeBop, instrWords, BitVec.msb_eq_getLsbD_last, Bop.bits]

theorem encodeUop_length (op : Uop) (z : Size) (m : UopMem) :
    (encodeUop op z m).length = instrWords ((encodeUop op z m).headD 0#16) := by
  cases m <;> cases op <;> cases z <;> simp [encodeUop, instrWords, Uop.bits, uopSel] <;> decide

theorem encodeLoad_length (k : LoadKind) (rd : Reg) (m : LoadMem) :
    (encodeLoad k rd m).length = instrWords ((encodeLoad k rd m).headD 0#16) := by
  cases m <;> cases k <;> simp [encodeLoad, instrWords, BitVec.msb_eq_getLsbD_last, loadSel, zbSel, ptrLoadOp]

theorem encodeStore_length (z : Size) (m : StoreMem) (rs : Reg) :
    (encodeStore z m rs).length = instrWords ((encodeStore z m rs).headD 0#16) := by
  cases m <;> cases z <;> simp [encodeStore, instrWords, BitVec.msb_eq_getLsbD_last, storeSel, ptrStoreOp, fpStoreOp]

theorem encodeStoreImm_length (m : PtrMode) (rd : Reg) (v : StoreVal) :
    (encodeStoreImm m rd v).length = instrWords ((encodeStoreImm m rd v).headD 0#16) := by
  cases v <;> cases m <;> simp [encodeStoreImm, instrWords]

end Sys2Proof
end

