-- ==== Sys2Proof/Laws/Operations.lean ====
section
/-! SUPPORT. Each shared operation once: everything it can do when it answers a next state, for an instruction that accesses
memory in a state where the DMA controller does nothing between its accesses. Later proofs cite these instead of unfolding
the operation. -/

namespace Sys2Proof.Machine

theorem next_inj {α : Type} {a b : α} : ((.next a : Out α) = .next b) ↔ a = b :=
  ⟨fun h => by injection h, fun h => by rw [h]⟩

theorem andThen_next_eq_next {α β : Type} {x : Out α} {f : α → β} {b : β} :
    (andThen x fun a => .next (f a)) = .next b ↔ ∃ a, x = .next a ∧ b = f a := by
  rw [andThen_eq_next]
  exact exists_congr fun a => and_congr_right fun _ => next_inj.trans eq_comm

/-! ### The stack and the PC -/

theorem push_eq_next {z : Size} {v : BitVec (Size.bits z)} {s t : State} :
    push z v s = .next t ↔ Writable s.dev z (s.sp - sizeQuad z) ∧
      t = putValue z (s.sp - sizeQuad z) v (s.writeReg spReg (s.sp - sizeQuad z)) := writeMem_eq_next

theorem busPush_eq_next {z : Size} {v : BitVec (Size.bits z)} {s t : State} (h : Undisturbed s) (hw : Memory.wf s.mem) :
    busPush z v s = .next t ↔ Writable s.dev z (s.sp - sizeQuad z) ∧
      t = putValue z (s.sp - sizeQuad z) v (s.writeReg spReg (s.sp - sizeQuad z)) := by
  rw [busPush_undisturbed h hw]; exact push_eq_next

theorem loadPc_eq_next {q : Quad} {s t : State} : loadPc q s = .next t ↔ q.getLsbD 0 = false ∧ t = jumpTo q s := by
  unfold loadPc
  cases q.getLsbD 0 <;> simp [eq_comm]

theorem loadPc_even {q : Quad} {s : State} (h : q.getLsbD 0 = false) : loadPc q s = .next (jumpTo q s) :=
  loadPc_eq_next.2 ⟨h, rfl⟩

theorem loadPc_odd {q : Quad} {s : State} (h : q.getLsbD 0 = true) : loadPc q s = .fault .oddPc := by
  unfold loadPc; rw [h]; rfl

theorem jumpThrough_eq_next {v : Quad} {s t : State} :
    jumpThrough v s = .next t ↔ Readable s.dev .quad v ∧ (valueAt .quad v s).getLsbD 0 = false ∧
      t = jumpTo (valueAt .quad v s) s := by
  unfold jumpThrough
  rw [andThen_eq_next]
  constructor
  · rintro ⟨a, h1, h2⟩
    obtain ⟨hr, rfl⟩ := readMem_eq_next.1 h1
    exact ⟨hr, loadPc_eq_next.1 h2⟩
  · rintro ⟨hr, h⟩
    exact ⟨_, readMem_of_readable hr, loadPc_eq_next.2 h⟩

theorem putByte_regs_spovReq (a : Quad) (v : Byte) (r : Vector Quad 16) (q : Bool) (s : State) :
    putByte a v { s with regs := r, spovReq := q } = { putByte a v s with regs := r, spovReq := q } := by
  unfold putByte
  show (match locate s.dev a with | _ => _) = _
  cases locate s.dev a <;> rfl

/-- A store does not look at the registers. -/
theorem putValue_regs_spovReq (z : Size) (a : Quad) (v : BitVec (Size.bits z)) (r : Vector Quad 16) (q : Bool) (s : State) :
    putValue z a v { s with regs := r, spovReq := q } = { putValue z a v s with regs := r, spovReq := q } := by
  cases z <;> simp only [putValue, putByte_regs_spovReq]

/-! ### Exceptions, interrupts and returns -/

theorem takeException_eq_next {e : SysExc} {p : Quad} {s t : State} :
    takeException e p s = .next t ↔ ∃ s1 s2,
      push .word (flagsWord s.flags) { s with sysexcp := setExcBit e s.sysexcp } = .next s1 ∧
      push .quad p (copyIrqe s1) = .next s2 ∧ jumpThrough sysExcVector (excIrqe s2) = .next t := by
  unfold takeException
  simp only [andThen_eq_next]
  constructor
  · rintro ⟨a, h1, b, h2, h3⟩; exact ⟨a, b, h1, h2, h3⟩
  · rintro ⟨a, b, h1, h2, h3⟩; exact ⟨a, h1, b, h2, h3⟩

theorem raiseOnce_set {e : SysExc} {s : State} (h : excBit e s.sysexcp = true) : raiseOnce e s = .next s := by
  unfold raiseOnce; rw [h]; rfl

theorem raiseOnce_clear {e : SysExc} {s : State} (h : excBit e s.sysexcp = false) :
    raiseOnce e s = takeException e s.pc s := by
  unfold raiseOnce; rw [h]; rfl

theorem illegalInstruction_set {p : Quad} {s : State} (h : s.sysexcp.ill = true) :
    illegalInstruction p s = jumpThrough sysExcVector (excIrqe (copyIrqe (clearLatches s))) := by
  unfold illegalInstruction; rw [h]; rfl

theorem illegalInstruction_clear {p : Quad} {s : State} (h : s.sysexcp.ill = false) :
    illegalInstruction p s = takeException .illegalInstruction p (clearLatches s) := by
  unfold illegalInstruction; rw [h]; rfl

theorem interruptEntry_eq_next {q : IrqRequest} {s t : State} :
    interruptEntry q s = .next t ↔ ∃ s1 s2 s3 s4 s5 s6 s7,
      push .byte s.flags s = .next s1 ∧ push .byte 0x00#8 s1 = .next s2 ∧ push .byte (quadByte s.pc 3) s2 = .next s3 ∧
      push .byte (quadByte s.pc 2) (copyIrqe s3) = .next s4 ∧ push .byte (quadByte s.pc 1) s4 = .next s5 ∧
      push .byte (quadByte s.pc 0) s5 = .next s6 ∧
      jumpThrough q.vectorAddr { s6 with flags := setIrqe false s6.flags } = .next s7 ∧ t = acceptHead s7 := by
  unfold interruptEntry
  simp only [andThen_eq_next, next_inj]
  constructor
  · rintro ⟨a, ha, b, hb, c, hc, d, hd, e, he, f, hf, g, hg, rfl⟩
    exact ⟨a, b, c, d, e, f, g, ha, hb, hc, hd, he, hf, hg, rfl⟩
  · rintro ⟨a, b, c, d, e, f, g, ha, hb, hc, hd, he, hf, hg, rfl⟩
    exact ⟨a, ha, b, hb, c, hc, d, hd, e, he, f, hf, g, hg, rfl⟩

theorem chainRequest_eq_some {s : State} {q : IrqRequest} :
    chainRequest s = some q ↔ flagCirqe s.flags = true ∧ s.atmCount = 0 ∧ s.pending.head? = some q := by
  unfold chainRequest
  by_cases h : (flagCirqe s.flags && s.atmCount == 0) = true
  · rw [if_pos h]; simp at h; simp [h]
  · rw [if_neg h]; simp at h; simp; intro h1 h2; exact absurd h2 (h h1)

theorem returnFromInterrupt_none {s : State} (h : chainRequest s = none) : returnFromInterrupt s = normalReturn s := by
  unfold returnFromInterrupt; rw [h]

theorem returnFromInterrupt_some {s : State} {q : IrqRequest} (h : chainRequest s = some q) :
    returnFromInterrupt s = chainedReturn q s := by
  unfold returnFromInterrupt; rw [h]

theorem chainedReturn_eq_next {q : IrqRequest} {s t : State} (h : Undisturbed s) :
    chainedReturn q s = .next t ↔ ∃ u, jumpThrough q.vectorAddr { s with flags := setIrqe false s.flags } = .next u ∧
      t = acceptHead u := by
  unfold chainedReturn
  rw [busJump_undisturbed (s := { s with flags := setIrqe false s.flags }) h]
  exact andThen_next_eq_next

/-! ### The operations of the instructions -/

theorem bopReg_eq (op : Bop) (rd : Reg) (b : Quad) (old : Byte) (s : State) :
    bopReg op rd b old s = .next ((if bopWrites op then
        s.writeReg rd (bopCompute op s.extPending old (s.reg rd) b).1 else s).setFlags
      (bopCompute op s.extPending old (s.reg rd) b).2) := rfl

theorem bopMem_eq_next {op : Bop} {z : Size} {ea : Quad} {b : BitVec (Size.bits z)} {s t : State} (h : Undisturbed s) :
    bopMem op z ea b s = .next t ↔ Readable s.dev z ea ∧
      if bopWrites op then Writable s.dev z ea ∧
        t = (putValue z ea (bopCompute op s.extPending s.flags (valueAt z ea s) b).1 s).setFlags
          (bopCompute op s.extPending s.flags (valueAt z ea s) b).2
      else t = s.setFlags (bopCompute op s.extPending s.flags (valueAt z ea s) b).2 := by
  unfold bopMem
  rw [andThen_eq_next]
  constructor
  · rintro ⟨a, h1, h2⟩
    obtain ⟨hr, rfl⟩ := (busRead_eq_next h).1 h1
    refine ⟨hr, ?_⟩
    simp only at h2
    split at h2
    · obtain ⟨u, h3, h4⟩ := andThen_eq_next.1 h2
      obtain ⟨hw, rfl⟩ := (busWrite_eq_next h).1 h3
      rw [if_pos ‹_›]; exact ⟨hw, (next_inj.1 h4).symm⟩
    · rw [if_neg ‹_›]; exact (next_inj.1 h2).symm
  · rintro ⟨hr, h2⟩
    refine ⟨_, busRead_of_readable h hr, ?_⟩
    simp only
    split
    · rw [if_pos ‹_›] at h2
      rw [busWrite_of_writable h h2.1, h2.2]; rfl
    · rw [if_neg ‹_›] at h2
      rw [h2]

theorem load_eq_next {k : LoadKind} {rd : Reg} {m : LoadMem} {s t : State} (h : Undisturbed s) :
    load k rd m s = .next t ↔ loadClash rd m = false ∧ Readable s.dev (kindSize k) (eaLoad m s) ∧
      t = ((loadUpdate k m s).writeReg rd (kindExtend k (valueAt (kindSize k) (eaLoad m s) s))).setFlags
        (blankPatch (blank1 (valueAt (kindSize k) (eaLoad m s) s))) := by
  unfold load
  cases loadClash rd m
  · rw [if_neg (by simp), andThen_eq_next]
    constructor
    · rintro ⟨a, h1, h2⟩
      obtain ⟨hr, rfl⟩ := (busRead_eq_next h).1 h1
      exact ⟨rfl, hr, (next_inj.1 h2).symm⟩
    · rintro ⟨-, hr, rfl⟩
      exact ⟨_, busRead_of_readable h hr, rfl⟩
  · simp

theorem Undisturbed.storeBefore {s : State} (h : Undisturbed s) (z : Size) (m : StoreMem) : Undisturbed (storeBefore z m s) :=
  h.of_eq (storeBefore_atmCount z m s) (storeBefore_dmaPlan z m s)

/-- The store of LD, by what it stores with. -/
theorem storeDatum_memoryOnly {z : Size} {m : StoreMem} {v : BitVec (Size.bits z)} {s t : State}
    (h : storeDatum z m v s = .next t) : MemoryOnly s t := by
  cases m <;> first | exact busWrite_memoryOnly h | exact busWriteDown_memoryOnly h

theorem storeDatum_eq_next {z : Size} {m : StoreMem} {v : BitVec (Size.bits z)} {s t : State} (h : Undisturbed s)
    (hw : Memory.wf s.mem) :
    storeDatum z m v s = .next t ↔ Writable s.dev z (eaStore m s) ∧ t = putValue z (eaStore m s) v s := by
  cases m <;> first
    | exact busWrite_eq_next h
    | (unfold storeDatum; rw [busWriteDown_undisturbed h hw]; exact writeMem_eq_next)

theorem store_eq_next {z : Size} {m : StoreMem} {rs : Reg} {s t : State} (h : Undisturbed s) (hm : Memory.wf s.mem) :
    store z m rs s = .next t ↔ Writable (storeBefore z m s).dev z (eaStore m (storeBefore z m s)) ∧
      t = storeAfter z m (putValue z (eaStore m (storeBefore z m s))
        (((storeBefore z m s).reg rs).setWidth (Size.bits z)) (storeBefore z m s)) := by
  unfold store
  rw [andThen_eq_next]
  constructor
  · rintro ⟨a, h1, h2⟩
    obtain ⟨hw, rfl⟩ := (storeDatum_eq_next (h.storeBefore z m) (storeBefore_mem z m s ▸ hm)).1 h1
    exact ⟨hw, (next_inj.1 h2).symm⟩
  · rintro ⟨hw, rfl⟩
    exact ⟨_, (storeDatum_eq_next (h.storeBefore z m) (storeBefore_mem z m s ▸ hm)).2 ⟨hw, rfl⟩, rfl⟩

theorem storeConst_eq_next {z : Size} {m : StoreMem} {v : BitVec (Size.bits z)} {s t : State} (h : Undisturbed s)
    (hm : Memory.wf s.mem) :
    storeConst z m v s = .next t ↔ Writable (storeBefore z m s).dev z (eaStore m (storeBefore z m s)) ∧
      t = storeAfter z m (putValue z (eaStore m (storeBefore z m s)) v (storeBefore z m s)) := by
  unfold storeConst
  rw [andThen_eq_next]
  constructor
  · rintro ⟨a, h1, h2⟩
    obtain ⟨hw, rfl⟩ := (storeDatum_eq_next (h.storeBefore z m) (storeBefore_mem z m s ▸ hm)).1 h1
    exact ⟨hw, (next_inj.1 h2).symm⟩
  · rintro ⟨hw, rfl⟩
    exact ⟨_, (storeDatum_eq_next (h.storeBefore z m) (storeBefore_mem z m s ▸ hm)).2 ⟨hw, rfl⟩, rfl⟩

theorem pushMultiple_cons (r : Reg) (rs : List Reg) (s : State) :
    pushMultiple (r :: rs) s =
      andThen (busWriteDown .quad (s.writeReg spReg (s.sp - 4#32)).sp ((s.writeReg spReg (s.sp - 4#32)).reg r)
        (s.writeReg spReg (s.sp - 4#32))) fun t => pushMultiple rs t := rfl

theorem popLoop_cons (r : Reg) (rs : List Reg) (last : Option Quad) (s : State) :
    popLoop (r :: rs) last s =
      andThen (busRead .quad s.sp s) fun v =>
        popLoop rs (some v.1) ((v.2.writeReg r v.1).writeReg spReg ((v.2.writeReg r v.1).sp + 4#32)) := rfl

theorem linkFrame_eq_next {imm : BitVec 8} {s t : State} :
    linkFrame imm s = .next t ↔ ∃ u, busPush .quad (s.reg fpReg) s = .next u ∧
      t = (u.writeReg fpReg u.sp).writeReg spReg ((u.writeReg fpReg u.sp).sp - imm.setWidth 32) := by
  unfold linkFrame
  exact andThen_next_eq_next

/-! ### Steps -/

theorem finishStep_eq_next {s t : State} :
    finishStep s = .next t ↔
      if s.spovReq && !s.sysexcp.spovf then
        ∃ u, takeException .stackOverflow s.pc s = .next u ∧ t = { u with spovReq := false }
      else t = { s with spovReq := false } := by
  unfold finishStep
  split
  · exact andThen_next_eq_next
  · exact next_inj.trans eq_comm

theorem boundaryRequest_eq_some {s : State} {q : IrqRequest} :
    boundaryRequest s = some q ↔ s.atmCount = 0 ∧ s.extPending = false ∧ s.noflagsPending = false ∧
      wakeRequest s = some q := by
  unfold boundaryRequest
  by_cases h : (s.atmCount == 0 && !s.extPending && !s.noflagsPending) = true
  · rw [if_pos h]; simp at h; simp [h]
  · rw [if_neg h]; simp at h; simp; intro h1 h2 h3; simp [h h1 h2] at h3

theorem runInstruction_eq_next {s t : State} :
    runInstruction s = .next t ↔ ∃ w f u, fetchWord s.pc s = .next w ∧ fetchRest w.1 w.2 = .next f ∧
      (if pcOverflows w.2 then skipOverflow w.1 f.2 else executeWords f.1 f.2) = .next u ∧ finishStep u = .next t := by
  unfold runInstruction
  simp only [andThen_eq_next]
  constructor
  · rintro ⟨w, h0, f, h1, u, h2, h3⟩; exact ⟨w, f, u, h0, h1, h2, h3⟩
  · rintro ⟨w, f, u, h0, h1, h2, h3⟩; exact ⟨w, h0, f, h1, u, h2, h3⟩

theorem acceptInterrupt_eq_next {q : IrqRequest} {s t : State} :
    acceptInterrupt q s = .next t ↔ ∃ u, interruptEntry q s = .next u ∧ finishStep u = .next t := andThen_eq_next

theorem resetMachine_eq_next {s t : State} :
    resetMachine s = .next t ↔ ∃ u, u = { State.reset with
        mem := s.mem, dev := s.dev, wdtEnabled := s.dev.wdtEnabledAtReset, wdtCounter := s.dev.wdtPeriod.getD 0 } ∧
      Readable s.dev .quad s.dev.resetVector ∧ (valueAt .quad s.dev.resetVector u).getLsbD 0 = false ∧
      t = jumpTo (valueAt .quad s.dev.resetVector u) u := by
  unfold resetMachine
  rw [jumpThrough_eq_next]
  simp

/-- A waiting CPU stays as it is, enters the request that wakes it, or is reset by it. -/
theorem stepWaiting_eq_next {rule : WakeRule} {s t : State} :
    stepWaiting rule s = .next t ↔
      (wakeRequest s = none ∧ t = s) ∨ ∃ q, wakeRequest s = some q ∧
        match rule with
        | .enter => acceptInterrupt q { s with runMode := .running, atmCount := 0 } = .next t
        | .reset => resetMachine s = .next t
        | .stay => t = s := by
  unfold stepWaiting wakeBy
  cases wakeRequest s <;> cases rule <;> simp [eq_comm]

theorem step_eq_next {s t : State} :
    step s = .next t ↔
      match s.runMode with
      | .running => (∃ q, boundaryRequest s = some q ∧ acceptInterrupt q s = .next t) ∨
          (boundaryRequest s = none ∧ runInstruction s = .next t)
      | .debugBreak => t = s
      | .halt => stepWaiting s.dev.haltWake s = .next t
      | .stop => stepWaiting s.dev.stopWake s = .next t := by
  unfold step stepRunning
  cases s.runMode
  · cases boundaryRequest s <;> simp
  · exact Iff.rfl
  · exact Iff.rfl
  · simp [eq_comm]

end Sys2Proof.Machine
end

