-- ==== Sys2Proof/Laws/Events.lean ====
section
/-! SUPPORT. What each event between steps can do, and the SYSEXCP bits that a device adds. -/

namespace Sys2Proof.Machine

/-! ### The SYSEXCP bits that a device adds -/

theorem mem_insertRising {n k : Nat} {l : List Nat} : k ∈ insertRising n l ↔ k = n ∨ k ∈ l := by
  induction l with
  | nil => simp [insertRising]
  | cons m ms ih =>
    unfold insertRising
    split
    · simp
    · split
      · next h => subst h; simp
      · simp only [List.mem_cons, ih, or_left_comm]

/-- Setting a bit keeps the list rising, so that equal registers are equal data. -/
theorem insertRising_rising {n : Nat} {l : List Nat} (h : l.Pairwise (· < ·)) : (insertRising n l).Pairwise (· < ·) := by
  induction l with
  | nil => simp [insertRising]
  | cons m ms ih =>
    obtain ⟨hm, hms⟩ := List.pairwise_cons.1 h
    unfold insertRising
    split
    · next hn => exact List.pairwise_cons.2 ⟨fun k hk => (List.mem_cons.1 hk).elim (· ▸ hn) (fun hk => Nat.lt_trans hn (hm k hk)), h⟩
    · split
      · exact h
      · refine List.pairwise_cons.2 ⟨fun k hk => ?_, ih hms⟩
        obtain rfl | hk := mem_insertRising.1 hk
        · omega
        · exact hm k hk

@[simp] theorem excBit_setExcBit (e : SysExc) (x : SysExcp) : excBit e (setExcBit e x) = true := by
  cases e <;> simp [excBit, setExcBit, mem_insertRising]

/-! ### The events -/

/-- Every request presented is one of a source of the device. -/
theorem mem_presentRequests {ns : List Nat} {s : State} {q : IrqRequest} :
    q ∈ (presentRequests ns s).pending ↔
      ∃ n ∈ ns, ∃ x, s.dev.irqSources[n]? = some x ∧ q = ⟨n, x.vectorAddr, x.nonmaskable⟩ := by
  simp only [presentRequests, List.mem_filterMap, Option.map_eq_some_iff, eq_comm (a := q)]

theorem dmaWrite_eq_next {a : Quad} {v : Byte} {s t : State} :
    dmaWrite a v s = .next t ↔
      (dmaMay s a = true ∧ Writable s.dev .byte a ∧ t = putValue .byte a v s) ∨ (dmaMay s a = false ∧ t = s) := by
  show (if dmaMay s a = true then writeMem .byte a v s else .next s) = .next t ↔ _
  split
  · next h => simp only [h, true_and, Bool.true_eq_false, false_and, or_false]; exact writeMem_eq_next
  · next h => simp [h, eq_comm]

theorem dmaRead_eq_next {a : Quad} {s t : State} :
    dmaRead a s = .next t ↔
      (dmaMay s a = true ∧ Readable s.dev .byte a ∧ t = { s with dmaSeen := byteAt a s :: s.dmaSeen }) ∨
      (dmaMay s a = false ∧ t = s) := by
  show (if dmaMay s a = true then andThen (readMem .byte a s) fun b => .next { s with dmaSeen := b :: s.dmaSeen }
    else .next s) = .next t ↔ _
  split
  · next h =>
    simp only [h, true_and, Bool.true_eq_false, false_and, or_false, andThen_eq_next, readMem_eq_next]
    constructor
    · rintro ⟨b, ⟨hr, rfl⟩, h2⟩
      injection h2 with h2
      exact ⟨hr, h2.symm⟩
    · rintro ⟨hr, rfl⟩
      exact ⟨_, ⟨hr, rfl⟩, rfl⟩
  · next h => simp [h, eq_comm]

/-- R104, R400 (b): no access of the DMA controller happens inside an ATM window. -/
theorem dmaAccess_in_window {x : DmaAccess} {s : State} (h : s.atmCount ≠ 0) : dmaAccess x s = .next s := by
  have : ∀ a, dmaMay s a = false := by simp [dmaMay, h]
  cases x <;> simp [dmaAccess, this]

/-- What the DMA controller writes keeps memory in its canonical form. -/
theorem dmaWrite_mem_wf {a : Quad} {v : Byte} {s t : State} (h : dmaWrite a v s = .next t) (hw : Memory.wf s.mem) :
    Memory.wf t.mem := (dmaAccess_memoryOnly h).wf hw

/-- The time-out happens. -/
theorem watchdogTimeout_ready {s : State} (h : s.wdtEnabled = true ∧ s.dev.wdtPeriod.isSome = true ∧ s.wdtCounter = 0) :
    watchdogTimeout s = resetMachine s := by
  simp [watchdogTimeout, h.1, h.2.1, h.2.2]

/-- The time-out does not happen. -/
theorem watchdogTimeout_not_ready {s : State}
    (h : ¬(s.wdtEnabled = true ∧ s.dev.wdtPeriod.isSome = true ∧ s.wdtCounter = 0)) : watchdogTimeout s = .next s := by
  unfold watchdogTimeout
  rw [if_neg]
  simpa [and_assoc] using h

theorem deviceException_eq_next {pos : Nat} {s t : State} :
    deviceException pos s = .next t ↔
      (deviceExceptionReady pos s = true ∧
        ∃ u, takeException (.device pos) s.pc (clearLatches s) = .next u ∧ finishStep u = .next t) ∨
      (deviceExceptionReady pos s = false ∧ t = s) := by
  unfold deviceException
  cases deviceExceptionReady pos s
  · simp [eq_comm]
  · simp [andThen_eq_next]

end Sys2Proof.Machine
end

