-- ==== Sys2Proof/Laws/Exec.lean ====
section
/-! SUPPORT. The meaning of an instruction of each tabulated family is its shared operation. -/

namespace Sys2Proof.Machine

theorem exec_bopInstr (op : Bop) (f : BopForm) (s : State) : exec (bopInstr op f) s = bop op f s := by
  cases f with
  | load k rd m => cases op <;> cases k <;> cases m <;> rfl
  | store z m rs => cases op <;> cases z <;> cases m <;> rfl
  | imm32 rd imm => cases op <;> rfl
  | uimm16 rd imm => cases op <;> rfl
  | reg rd rs => cases op <;> rfl
  | memImm32 rd imm => cases op <;> rfl
  | memSimm16 rd imm => cases op <;> rfl
  | memWImm16 rd imm => cases op <;> rfl
  | memBImm8 rd imm => cases op <;> rfl

theorem exec_uopInstr (op : Uop) (z : Size) (m : UopMem) (s : State) : exec (uopInstr op z m) s = uop op z m s := by
  cases op <;> cases z <;> cases m <;> rfl

theorem exec_loadInstr (k : LoadKind) (rd : Reg) (m : LoadMem) (s : State) :
    exec (loadInstr k rd m) s = load k rd m s := by
  cases k <;> cases m <;> rfl

theorem exec_storeInstr (z : Size) (m : StoreMem) (rs : Reg) (s : State) :
    exec (storeInstr z m rs) s = store z m rs s := by
  cases z <;> cases m <;> rfl

theorem exec_storeImmInstr (m : PtrMode) (rd : Reg) (v : StoreVal) (s : State) :
    exec (storeImmInstr m rd v) s = storeImm m rd v s := by
  cases m <;> cases v <;> rfl

theorem exec_popInstr (k : LoadKind) (rd : Reg) (s : State) : exec (popInstr k rd) s = popValue k rd s := by
  cases k <;> rfl

theorem exec_shiftRegInstr (op : ShiftOp) (rd rs : Reg) (s : State) :
    exec (shiftRegInstr op rd rs) s = shiftReg op rd rs s := by
  cases op <;> rfl

theorem exec_shiftImmInstr (op : ShiftOp) (rd : Reg) (imm : BitVec 5) (s : State) :
    exec (shiftImmInstr op rd imm) s = shiftImm op rd imm s := by
  cases op <;> rfl

/-! ### Every instruction by its shared operation -/

/-- A property of every instruction and its outcome follows from the same property of the shared operations: the binary,
unary, load, store, pop and shift families by their operand tables, every other instruction by its own operation. -/
theorem exec_by_operation {P : Instr → State → Out State → Prop} (s : State)
    (bop : ∀ (op : Bop) (f : BopForm), P (bopInstr op f) s (Machine.bop op f s))
    (addReg3 : ∀ (rd : Reg) (rs1 : Reg) (rs2 : Reg), P (.addReg3 rd rs1 rs2) s (Machine.addThree rd rs1 rs2 s))
    (addSimm8 : ∀ (rd : Reg) (imm : BitVec 8), P (.addSimm8 rd imm) s (Machine.addShort rd imm s))
    (cpSimm8 : ∀ (rd : Reg) (imm : BitVec 8), P (.cpSimm8 rd imm) s (Machine.compareShort rd imm s))
    (uop : ∀ (op : Uop) (z : Size) (m : UopMem), P (uopInstr op z m) s (Machine.uop op z m s))
    (load : ∀ (k : LoadKind) (rd : Reg) (m : LoadMem), P (loadInstr k rd m) s (Machine.load k rd m s))
    (store : ∀ (z : Size) (m : StoreMem) (rs : Reg), P (storeInstr z m rs) s (Machine.store z m rs s))
    (storeImm : ∀ (m : PtrMode) (rd : Reg) (v : StoreVal), P (storeImmInstr m rd v) s (Machine.storeImm m rd v s))
    (ldSimm8 : ∀ (rd : Reg) (imm : BitVec 8), P (.ldSimm8 rd imm) s (Machine.loadValue rd (imm.signExtend 32) s))
    (ldSimm17 : ∀ (rd : Reg) (imm : BitVec 17), P (.ldSimm17 rd imm) s (Machine.loadValue rd (imm.signExtend 32) s))
    (ldImm32 : ∀ (rd : Reg) (imm : BitVec 32), P (.ldImm32 rd imm) s (Machine.loadValue rd imm s))
    (ldReg : ∀ (rd : Reg) (rs : Reg), P (.ldReg rd rs) s (Machine.copyReg rd rs s))
    (ldCc : ∀ (cc : CC) (rd : Reg), P (.ldCc cc rd) s (Machine.loadCondition cc rd s))
    (ldes : ∀ (rd : Reg), P (.ldes rd) s (Machine.loadSign rd s))
    (leaPc : ∀ (rd : Reg) (off : BitVec 14), P (.leaPc rd off) s (Machine.loadAddress rd (.pc off) s))
    (leaInd : ∀ (rd : Reg) (rs : Reg) (off : BitVec 14), P (.leaInd rd rs off) s (Machine.loadAddress rd (.ind rs off) s))
    (leaFp : ∀ (rd : Reg) (off : BitVec 6), P (.leaFp rd off) s (Machine.loadAddress rd (.fp off) s))
    (extUB : ∀ (rd : Reg) (rs : Reg), P (.extUB rd rs) s (Machine.extend .ub rd rs s))
    (extUW : ∀ (rd : Reg) (rs : Reg), P (.extUW rd rs) s (Machine.extend .uw rd rs s))
    (extSB : ∀ (rd : Reg) (rs : Reg), P (.extSB rd rs) s (Machine.extend .sb rd rs s))
    (extSW : ∀ (rd : Reg) (rs : Reg), P (.extSW rd rs) s (Machine.extend .sw rd rs s))
    (com : ∀ (rd : Reg), P (.com rd) s (Machine.complement rd s))
    (neg : ∀ (rd : Reg), P (.neg rd) s (Machine.negate rd s))
    (pushBImm8 : ∀ (imm : BitVec 8), P (.pushBImm8 imm) s (Machine.pushValue .byte imm s))
    (pushWSimm8 : ∀ (imm : BitVec 8), P (.pushWSimm8 imm) s (Machine.pushValue .word (imm.signExtend 16) s))
    (pushSimm8 : ∀ (imm : BitVec 8), P (.pushSimm8 imm) s (Machine.pushValue .quad (imm.signExtend 32) s))
    (pop : ∀ (k : LoadKind) (rd : Reg), P (popInstr k rd) s (popValue k rd s))
    (pushmLo : ∀ (mask : BitVec 8), P (.pushmLo mask) s (Machine.pushMultiple (pushMask 7 mask) s))
    (pushmHi : ∀ (mask : BitVec 8), P (.pushmHi mask) s (Machine.pushMultiple (pushMask 15 mask) s))
    (popmLo : ∀ (mask : BitVec 8), P (.popmLo mask) s (Machine.popMultiple (popMask 0 mask) s))
    (popmHi : ∀ (mask : BitVec 8), P (.popmHi mask) s (Machine.popMultiple (popMask 8 mask) s))
    (pushf : P (.pushf) s (Machine.pushFlags s))
    (popf : P (.popf) s (Machine.popFlags s))
    (link : ∀ (imm : BitVec 8), P (.link imm) s (Machine.linkFrame imm s))
    (unlink : P (.unlink) s (Machine.unlinkFrame s))
    (udiv : ∀ (rd : Reg) (rs : Reg), P (.udiv rd rs) s (Machine.divideUnsigned rd rs s))
    (sdiv : ∀ (rd : Reg) (rs : Reg), P (.sdiv rd rs) s (Machine.divideSigned rd rs s))
    (umul : ∀ (rd : Reg) (rs : Reg), P (.umul rd rs) s (Machine.multiplyWide false rd rs s))
    (smul : ∀ (rd : Reg) (rs : Reg), P (.smul rd rs) s (Machine.multiplyWide true rd rs s))
    (mul : ∀ (rd : Reg) (rs : Reg), P (.mul rd rs) s (Machine.multiply rd rs s))
    (shiftReg : ∀ (op : ShiftOp) (rd rs : Reg), P (shiftRegInstr op rd rs) s (Machine.shiftReg op rd rs s))
    (shiftImm : ∀ (op : ShiftOp) (rd : Reg) (imm : BitVec 5), P (shiftImmInstr op rd imm) s (Machine.shiftImm op rd imm s))
    (jpRel12 : ∀ (rel : BitVec 12), P (.jpRel12 rel) s (Machine.jumpRelative rel s))
    (jpRel24 : ∀ (rel : BitVec 24), P (.jpRel24 rel) s (Machine.jumpRelative rel s))
    (jpInd : ∀ (rs : Reg), P (.jpInd rs) s (Machine.jumpRegister rs s))
    (jpCcRel8 : ∀ (cc : CC) (rel : BitVec 8), P (.jpCcRel8 cc rel) s (Machine.jumpConditional cc rel s))
    (jpCcRel16 : ∀ (cc : CC) (rel : BitVec 16), P (.jpCcRel16 cc rel) s (Machine.jumpConditional cc rel s))
    (jpa : ∀ (imm : BitVec 32), P (.jpa imm) s (Machine.jumpAbsolute imm s))
    (callRel12 : ∀ (rel : BitVec 12), P (.callRel12 rel) s (Machine.callRelative rel s))
    (callRel24 : ∀ (rel : BitVec 24), P (.callRel24 rel) s (Machine.callRelative rel s))
    (callInd : ∀ (rs : Reg), P (.callInd rs) s (Machine.callRegister rs s))
    (calla : ∀ (imm : BitVec 32), P (.calla imm) s (Machine.callAbsolute imm s))
    (djnz : ∀ (rd : Reg) (rel : BitVec 4), P (.djnz rd rel) s (Machine.decrementJump rd rel s))
    (trap : ∀ (vec : BitVec 8), P (.trap vec) s (Machine.softwareTrap vec s))
    (ill : P (.ill) s (Machine.illegalWord s))
    (ret : P (.ret) s (Machine.returnFromCall s))
    (iret : P (.iret) s (Machine.returnFromInterrupt s))
    (brk : P (.brk) s (Machine.breakPoint s))
    (atm : P (.atm) s (Machine.startAtomic s))
    (noflags : P (.noflags) s (Machine.setNoflags s))
    (extendPrefix : P (.extend) s (Machine.setExtend s))
    (wdt : P (.wdt) s (Machine.refreshWatchdog s))
    (stop : P (.stop) s (Machine.enterMode .stop s))
    (halt : P (.halt) s (Machine.enterMode .halt s))
    (ei : P (.ei) s (Machine.setInterruptEnable true s))
    (di : P (.di) s (Machine.setInterruptEnable false s))
    (nop : P (.nop) s (Machine.noOperation s))
    (cpczReg : ∀ (rd : Reg), P (.cpczReg rd) s (Machine.compareZeroCarry rd s)) :
    ∀ i, P i s (exec i s) := by
  intro i
  cases i with
  | addImm32 rd imm => exact bop .add (.imm32 rd imm)
  | addUimm16 rd imm => exact bop .add (.uimm16 rd imm)
  | addReg rd rs => exact bop .add (.reg rd rs)
  | addAddr16 rd addr => exact bop .add (.load .q rd (.addr16 addr))
  | addAddr32 rd addr => exact bop .add (.load .q rd (.addr32 addr))
  | addInd rd rs off => exact bop .add (.load .q rd (.ind rs off))
  | addSWAddr16 rd addr => exact bop .add (.load .sw rd (.addr16 addr))
  | addSWAddr32 rd addr => exact bop .add (.load .sw rd (.addr32 addr))
  | addSWInd rd rs off => exact bop .add (.load .sw rd (.ind rs off))
  | addUWAddr16 rd addr => exact bop .add (.load .uw rd (.addr16 addr))
  | addUWAddr32 rd addr => exact bop .add (.load .uw rd (.addr32 addr))
  | addUWInd rd rs off => exact bop .add (.load .uw rd (.ind rs off))
  | addSBAddr16 rd addr => exact bop .add (.load .sb rd (.addr16 addr))
  | addSBAddr32 rd addr => exact bop .add (.load .sb rd (.addr32 addr))
  | addSBInd rd rs off => exact bop .add (.load .sb rd (.ind rs off))
  | addUBAddr16 rd addr => exact bop .add (.load .ub rd (.addr16 addr))
  | addUBAddr32 rd addr => exact bop .add (.load .ub rd (.addr32 addr))
  | addUBInd rd rs off => exact bop .add (.load .ub rd (.ind rs off))
  | addToAddr16 addr rs => exact bop .add (.store .quad (.addr16 addr) rs)
  | addToAddr32 addr rs => exact bop .add (.store .quad (.addr32 addr) rs)
  | addToInd rd off rs => exact bop .add (.store .quad (.ind rd off) rs)
  | addWToAddr16 addr rs => exact bop .add (.store .word (.addr16 addr) rs)
  | addWToAddr32 addr rs => exact bop .add (.store .word (.addr32 addr) rs)
  | addWToInd rd off rs => exact bop .add (.store .word (.ind rd off) rs)
  | addBToAddr16 addr rs => exact bop .add (.store .byte (.addr16 addr) rs)
  | addBToAddr32 addr rs => exact bop .add (.store .byte (.addr32 addr) rs)
  | addBToInd rd off rs => exact bop .add (.store .byte (.ind rd off) rs)
  | addMemImm32 rd imm => exact bop .add (.memImm32 rd imm)
  | addMemSimm16 rd imm => exact bop .add (.memSimm16 rd imm)
  | addWMemImm16 rd imm => exact bop .add (.memWImm16 rd imm)
  | addBMemImm8 rd imm => exact bop .add (.memBImm8 rd imm)
  | subImm32 rd imm => exact bop .sub (.imm32 rd imm)
  | subUimm16 rd imm => exact bop .sub (.uimm16 rd imm)
  | subReg rd rs => exact bop .sub (.reg rd rs)
  | subAddr16 rd addr => exact bop .sub (.load .q rd (.addr16 addr))
  | subAddr32 rd addr => exact bop .sub (.load .q rd (.addr32 addr))
  | subInd rd rs off => exact bop .sub (.load .q rd (.ind rs off))
  | subSWAddr16 rd addr => exact bop .sub (.load .sw rd (.addr16 addr))
  | subSWAddr32 rd addr => exact bop .sub (.load .sw rd (.addr32 addr))
  | subSWInd rd rs off => exact bop .sub (.load .sw rd (.ind rs off))
  | subUWAddr16 rd addr => exact bop .sub (.load .uw rd (.addr16 addr))
  | subUWAddr32 rd addr => exact bop .sub (.load .uw rd (.addr32 addr))
  | subUWInd rd rs off => exact bop .sub (.load .uw rd (.ind rs off))
  | subSBAddr16 rd addr => exact bop .sub (.load .sb rd (.addr16 addr))
  | subSBAddr32 rd addr => exact bop .sub (.load .sb rd (.addr32 addr))
  | subSBInd rd rs off => exact bop .sub (.load .sb rd (.ind rs off))
  | subUBAddr16 rd addr => exact bop .sub (.load .ub rd (.addr16 addr))
  | subUBAddr32 rd addr => exact bop .sub (.load .ub rd (.addr32 addr))
  | subUBInd rd rs off => exact bop .sub (.load .ub rd (.ind rs off))
  | subToAddr16 addr rs => exact bop .sub (.store .quad (.addr16 addr) rs)
  | subToAddr32 addr rs => exact bop .sub (.store .quad (.addr32 addr) rs)
  | subToInd rd off rs => exact bop .sub (.store .quad (.ind rd off) rs)
  | subWToAddr16 addr rs => exact bop .sub (.store .word (.addr16 addr) rs)
  | subWToAddr32 addr rs => exact bop .sub (.store .word (.addr32 addr) rs)
  | subWToInd rd off rs => exact bop .sub (.store .word (.ind rd off) rs)
  | subBToAddr16 addr rs => exact bop .sub (.store .byte (.addr16 addr) rs)
  | subBToAddr32 addr rs => exact bop .sub (.store .byte (.addr32 addr) rs)
  | subBToInd rd off rs => exact bop .sub (.store .byte (.ind rd off) rs)
  | subMemImm32 rd imm => exact bop .sub (.memImm32 rd imm)
  | subMemSimm16 rd imm => exact bop .sub (.memSimm16 rd imm)
  | subWMemImm16 rd imm => exact bop .sub (.memWImm16 rd imm)
  | subBMemImm8 rd imm => exact bop .sub (.memBImm8 rd imm)
  | andImm32 rd imm => exact bop .and (.imm32 rd imm)
  | andUimm16 rd imm => exact bop .and (.uimm16 rd imm)
  | andReg rd rs => exact bop .and (.reg rd rs)
  | andAddr16 rd addr => exact bop .and (.load .q rd (.addr16 addr))
  | andAddr32 rd addr => exact bop .and (.load .q rd (.addr32 addr))
  | andInd rd rs off => exact bop .and (.load .q rd (.ind rs off))
  | andSWAddr16 rd addr => exact bop .and (.load .sw rd (.addr16 addr))
  | andSWAddr32 rd addr => exact bop .and (.load .sw rd (.addr32 addr))
  | andSWInd rd rs off => exact bop .and (.load .sw rd (.ind rs off))
  | andUWAddr16 rd addr => exact bop .and (.load .uw rd (.addr16 addr))
  | andUWAddr32 rd addr => exact bop .and (.load .uw rd (.addr32 addr))
  | andUWInd rd rs off => exact bop .and (.load .uw rd (.ind rs off))
  | andSBAddr16 rd addr => exact bop .and (.load .sb rd (.addr16 addr))
  | andSBAddr32 rd addr => exact bop .and (.load .sb rd (.addr32 addr))
  | andSBInd rd rs off => exact bop .and (.load .sb rd (.ind rs off))
  | andUBAddr16 rd addr => exact bop .and (.load .ub rd (.addr16 addr))
  | andUBAddr32 rd addr => exact bop .and (.load .ub rd (.addr32 addr))
  | andUBInd rd rs off => exact bop .and (.load .ub rd (.ind rs off))
  | andToAddr16 addr rs => exact bop .and (.store .quad (.addr16 addr) rs)
  | andToAddr32 addr rs => exact bop .and (.store .quad (.addr32 addr) rs)
  | andToInd rd off rs => exact bop .and (.store .quad (.ind rd off) rs)
  | andWToAddr16 addr rs => exact bop .and (.store .word (.addr16 addr) rs)
  | andWToAddr32 addr rs => exact bop .and (.store .word (.addr32 addr) rs)
  | andWToInd rd off rs => exact bop .and (.store .word (.ind rd off) rs)
  | andBToAddr16 addr rs => exact bop .and (.store .byte (.addr16 addr) rs)
  | andBToAddr32 addr rs => exact bop .and (.store .byte (.addr32 addr) rs)
  | andBToInd rd off rs => exact bop .and (.store .byte (.ind rd off) rs)
  | andMemImm32 rd imm => exact bop .and (.memImm32 rd imm)
  | andMemSimm16 rd imm => exact bop .and (.memSimm16 rd imm)
  | andWMemImm16 rd imm => exact bop .and (.memWImm16 rd imm)
  | andBMemImm8 rd imm => exact bop .and (.memBImm8 rd imm)
  | orImm32 rd imm => exact bop .or (.imm32 rd imm)
  | orUimm16 rd imm => exact bop .or (.uimm16 rd imm)
  | orReg rd rs => exact bop .or (.reg rd rs)
  | orAddr16 rd addr => exact bop .or (.load .q rd (.addr16 addr))
  | orAddr32 rd addr => exact bop .or (.load .q rd (.addr32 addr))
  | orInd rd rs off => exact bop .or (.load .q rd (.ind rs off))
  | orSWAddr16 rd addr => exact bop .or (.load .sw rd (.addr16 addr))
  | orSWAddr32 rd addr => exact bop .or (.load .sw rd (.addr32 addr))
  | orSWInd rd rs off => exact bop .or (.load .sw rd (.ind rs off))
  | orUWAddr16 rd addr => exact bop .or (.load .uw rd (.addr16 addr))
  | orUWAddr32 rd addr => exact bop .or (.load .uw rd (.addr32 addr))
  | orUWInd rd rs off => exact bop .or (.load .uw rd (.ind rs off))
  | orSBAddr16 rd addr => exact bop .or (.load .sb rd (.addr16 addr))
  | orSBAddr32 rd addr => exact bop .or (.load .sb rd (.addr32 addr))
  | orSBInd rd rs off => exact bop .or (.load .sb rd (.ind rs off))
  | orUBAddr16 rd addr => exact bop .or (.load .ub rd (.addr16 addr))
  | orUBAddr32 rd addr => exact bop .or (.load .ub rd (.addr32 addr))
  | orUBInd rd rs off => exact bop .or (.load .ub rd (.ind rs off))
  | orToAddr16 addr rs => exact bop .or (.store .quad (.addr16 addr) rs)
  | orToAddr32 addr rs => exact bop .or (.store .quad (.addr32 addr) rs)
  | orToInd rd off rs => exact bop .or (.store .quad (.ind rd off) rs)
  | orWToAddr16 addr rs => exact bop .or (.store .word (.addr16 addr) rs)
  | orWToAddr32 addr rs => exact bop .or (.store .word (.addr32 addr) rs)
  | orWToInd rd off rs => exact bop .or (.store .word (.ind rd off) rs)
  | orBToAddr16 addr rs => exact bop .or (.store .byte (.addr16 addr) rs)
  | orBToAddr32 addr rs => exact bop .or (.store .byte (.addr32 addr) rs)
  | orBToInd rd off rs => exact bop .or (.store .byte (.ind rd off) rs)
  | orMemImm32 rd imm => exact bop .or (.memImm32 rd imm)
  | orMemSimm16 rd imm => exact bop .or (.memSimm16 rd imm)
  | orWMemImm16 rd imm => exact bop .or (.memWImm16 rd imm)
  | orBMemImm8 rd imm => exact bop .or (.memBImm8 rd imm)
  | xorImm32 rd imm => exact bop .xor (.imm32 rd imm)
  | xorUimm16 rd imm => exact bop .xor (.uimm16 rd imm)
  | xorReg rd rs => exact bop .xor (.reg rd rs)
  | xorAddr16 rd addr => exact bop .xor (.load .q rd (.addr16 addr))
  | xorAddr32 rd addr => exact bop .xor (.load .q rd (.addr32 addr))
  | xorInd rd rs off => exact bop .xor (.load .q rd (.ind rs off))
  | xorSWAddr16 rd addr => exact bop .xor (.load .sw rd (.addr16 addr))
  | xorSWAddr32 rd addr => exact bop .xor (.load .sw rd (.addr32 addr))
  | xorSWInd rd rs off => exact bop .xor (.load .sw rd (.ind rs off))
  | xorUWAddr16 rd addr => exact bop .xor (.load .uw rd (.addr16 addr))
  | xorUWAddr32 rd addr => exact bop .xor (.load .uw rd (.addr32 addr))
  | xorUWInd rd rs off => exact bop .xor (.load .uw rd (.ind rs off))
  | xorSBAddr16 rd addr => exact bop .xor (.load .sb rd (.addr16 addr))
  | xorSBAddr32 rd addr => exact bop .xor (.load .sb rd (.addr32 addr))
  | xorSBInd rd rs off => exact bop .xor (.load .sb rd (.ind rs off))
  | xorUBAddr16 rd addr => exact bop .xor (.load .ub rd (.addr16 addr))
  | xorUBAddr32 rd addr => exact bop .xor (.load .ub rd (.addr32 addr))
  | xorUBInd rd rs off => exact bop .xor (.load .ub rd (.ind rs off))
  | xorToAddr16 addr rs => exact bop .xor (.store .quad (.addr16 addr) rs)
  | xorToAddr32 addr rs => exact bop .xor (.store .quad (.addr32 addr) rs)
  | xorToInd rd off rs => exact bop .xor (.store .quad (.ind rd off) rs)
  | xorWToAddr16 addr rs => exact bop .xor (.store .word (.addr16 addr) rs)
  | xorWToAddr32 addr rs => exact bop .xor (.store .word (.addr32 addr) rs)
  | xorWToInd rd off rs => exact bop .xor (.store .word (.ind rd off) rs)
  | xorBToAddr16 addr rs => exact bop .xor (.store .byte (.addr16 addr) rs)
  | xorBToAddr32 addr rs => exact bop .xor (.store .byte (.addr32 addr) rs)
  | xorBToInd rd off rs => exact bop .xor (.store .byte (.ind rd off) rs)
  | xorMemImm32 rd imm => exact bop .xor (.memImm32 rd imm)
  | xorMemSimm16 rd imm => exact bop .xor (.memSimm16 rd imm)
  | xorWMemImm16 rd imm => exact bop .xor (.memWImm16 rd imm)
  | xorBMemImm8 rd imm => exact bop .xor (.memBImm8 rd imm)
  | cpImm32 rd imm => exact bop .cp (.imm32 rd imm)
  | cpUimm16 rd imm => exact bop .cp (.uimm16 rd imm)
  | cpReg rd rs => exact bop .cp (.reg rd rs)
  | cpAddr16 rd addr => exact bop .cp (.load .q rd (.addr16 addr))
  | cpAddr32 rd addr => exact bop .cp (.load .q rd (.addr32 addr))
  | cpInd rd rs off => exact bop .cp (.load .q rd (.ind rs off))
  | cpSWAddr16 rd addr => exact bop .cp (.load .sw rd (.addr16 addr))
  | cpSWAddr32 rd addr => exact bop .cp (.load .sw rd (.addr32 addr))
  | cpSWInd rd rs off => exact bop .cp (.load .sw rd (.ind rs off))
  | cpUWAddr16 rd addr => exact bop .cp (.load .uw rd (.addr16 addr))
  | cpUWAddr32 rd addr => exact bop .cp (.load .uw rd (.addr32 addr))
  | cpUWInd rd rs off => exact bop .cp (.load .uw rd (.ind rs off))
  | cpSBAddr16 rd addr => exact bop .cp (.load .sb rd (.addr16 addr))
  | cpSBAddr32 rd addr => exact bop .cp (.load .sb rd (.addr32 addr))
  | cpSBInd rd rs off => exact bop .cp (.load .sb rd (.ind rs off))
  | cpUBAddr16 rd addr => exact bop .cp (.load .ub rd (.addr16 addr))
  | cpUBAddr32 rd addr => exact bop .cp (.load .ub rd (.addr32 addr))
  | cpUBInd rd rs off => exact bop .cp (.load .ub rd (.ind rs off))
  | cpToAddr16 addr rs => exact bop .cp (.store .quad (.addr16 addr) rs)
  | cpToAddr32 addr rs => exact bop .cp (.store .quad (.addr32 addr) rs)
  | cpToInd rd off rs => exact bop .cp (.store .quad (.ind rd off) rs)
  | cpWToAddr16 addr rs => exact bop .cp (.store .word (.addr16 addr) rs)
  | cpWToAddr32 addr rs => exact bop .cp (.store .word (.addr32 addr) rs)
  | cpWToInd rd off rs => exact bop .cp (.store .word (.ind rd off) rs)
  | cpBToAddr16 addr rs => exact bop .cp (.store .byte (.addr16 addr) rs)
  | cpBToAddr32 addr rs => exact bop .cp (.store .byte (.addr32 addr) rs)
  | cpBToInd rd off rs => exact bop .cp (.store .byte (.ind rd off) rs)
  | cpMemImm32 rd imm => exact bop .cp (.memImm32 rd imm)
  | cpMemSimm16 rd imm => exact bop .cp (.memSimm16 rd imm)
  | cpWMemImm16 rd imm => exact bop .cp (.memWImm16 rd imm)
  | cpBMemImm8 rd imm => exact bop .cp (.memBImm8 rd imm)
  | tmImm32 rd imm => exact bop .tm (.imm32 rd imm)
  | tmUimm16 rd imm => exact bop .tm (.uimm16 rd imm)
  | tmReg rd rs => exact bop .tm (.reg rd rs)
  | tmAddr16 rd addr => exact bop .tm (.load .q rd (.addr16 addr))
  | tmAddr32 rd addr => exact bop .tm (.load .q rd (.addr32 addr))
  | tmInd rd rs off => exact bop .tm (.load .q rd (.ind rs off))
  | tmSWAddr16 rd addr => exact bop .tm (.load .sw rd (.addr16 addr))
  | tmSWAddr32 rd addr => exact bop .tm (.load .sw rd (.addr32 addr))
  | tmSWInd rd rs off => exact bop .tm (.load .sw rd (.ind rs off))
  | tmUWAddr16 rd addr => exact bop .tm (.load .uw rd (.addr16 addr))
  | tmUWAddr32 rd addr => exact bop .tm (.load .uw rd (.addr32 addr))
  | tmUWInd rd rs off => exact bop .tm (.load .uw rd (.ind rs off))
  | tmSBAddr16 rd addr => exact bop .tm (.load .sb rd (.addr16 addr))
  | tmSBAddr32 rd addr => exact bop .tm (.load .sb rd (.addr32 addr))
  | tmSBInd rd rs off => exact bop .tm (.load .sb rd (.ind rs off))
  | tmUBAddr16 rd addr => exact bop .tm (.load .ub rd (.addr16 addr))
  | tmUBAddr32 rd addr => exact bop .tm (.load .ub rd (.addr32 addr))
  | tmUBInd rd rs off => exact bop .tm (.load .ub rd (.ind rs off))
  | tmToAddr16 addr rs => exact bop .tm (.store .quad (.addr16 addr) rs)
  | tmToAddr32 addr rs => exact bop .tm (.store .quad (.addr32 addr) rs)
  | tmToInd rd off rs => exact bop .tm (.store .quad (.ind rd off) rs)
  | tmWToAddr16 addr rs => exact bop .tm (.store .word (.addr16 addr) rs)
  | tmWToAddr32 addr rs => exact bop .tm (.store .word (.addr32 addr) rs)
  | tmWToInd rd off rs => exact bop .tm (.store .word (.ind rd off) rs)
  | tmBToAddr16 addr rs => exact bop .tm (.store .byte (.addr16 addr) rs)
  | tmBToAddr32 addr rs => exact bop .tm (.store .byte (.addr32 addr) rs)
  | tmBToInd rd off rs => exact bop .tm (.store .byte (.ind rd off) rs)
  | tmMemImm32 rd imm => exact bop .tm (.memImm32 rd imm)
  | tmMemSimm16 rd imm => exact bop .tm (.memSimm16 rd imm)
  | tmWMemImm16 rd imm => exact bop .tm (.memWImm16 rd imm)
  | tmBMemImm8 rd imm => exact bop .tm (.memBImm8 rd imm)
  | tcmImm32 rd imm => exact bop .tcm (.imm32 rd imm)
  | tcmUimm16 rd imm => exact bop .tcm (.uimm16 rd imm)
  | tcmReg rd rs => exact bop .tcm (.reg rd rs)
  | tcmAddr16 rd addr => exact bop .tcm (.load .q rd (.addr16 addr))
  | tcmAddr32 rd addr => exact bop .tcm (.load .q rd (.addr32 addr))
  | tcmInd rd rs off => exact bop .tcm (.load .q rd (.ind rs off))
  | tcmSWAddr16 rd addr => exact bop .tcm (.load .sw rd (.addr16 addr))
  | tcmSWAddr32 rd addr => exact bop .tcm (.load .sw rd (.addr32 addr))
  | tcmSWInd rd rs off => exact bop .tcm (.load .sw rd (.ind rs off))
  | tcmUWAddr16 rd addr => exact bop .tcm (.load .uw rd (.addr16 addr))
  | tcmUWAddr32 rd addr => exact bop .tcm (.load .uw rd (.addr32 addr))
  | tcmUWInd rd rs off => exact bop .tcm (.load .uw rd (.ind rs off))
  | tcmSBAddr16 rd addr => exact bop .tcm (.load .sb rd (.addr16 addr))
  | tcmSBAddr32 rd addr => exact bop .tcm (.load .sb rd (.addr32 addr))
  | tcmSBInd rd rs off => exact bop .tcm (.load .sb rd (.ind rs off))
  | tcmUBAddr16 rd addr => exact bop .tcm (.load .ub rd (.addr16 addr))
  | tcmUBAddr32 rd addr => exact bop .tcm (.load .ub rd (.addr32 addr))
  | tcmUBInd rd rs off => exact bop .tcm (.load .ub rd (.ind rs off))
  | tcmToAddr16 addr rs => exact bop .tcm (.store .quad (.addr16 addr) rs)
  | tcmToAddr32 addr rs => exact bop .tcm (.store .quad (.addr32 addr) rs)
  | tcmToInd rd off rs => exact bop .tcm (.store .quad (.ind rd off) rs)
  | tcmWToAddr16 addr rs => exact bop .tcm (.store .word (.addr16 addr) rs)
  | tcmWToAddr32 addr rs => exact bop .tcm (.store .word (.addr32 addr) rs)
  | tcmWToInd rd off rs => exact bop .tcm (.store .word (.ind rd off) rs)
  | tcmBToAddr16 addr rs => exact bop .tcm (.store .byte (.addr16 addr) rs)
  | tcmBToAddr32 addr rs => exact bop .tcm (.store .byte (.addr32 addr) rs)
  | tcmBToInd rd off rs => exact bop .tcm (.store .byte (.ind rd off) rs)
  | tcmMemImm32 rd imm => exact bop .tcm (.memImm32 rd imm)
  | tcmMemSimm16 rd imm => exact bop .tcm (.memSimm16 rd imm)
  | tcmWMemImm16 rd imm => exact bop .tcm (.memWImm16 rd imm)
  | tcmBMemImm8 rd imm => exact bop .tcm (.memBImm8 rd imm)
  | addReg3 rd rs1 rs2 => exact addReg3 rd rs1 rs2
  | addSimm8 rd imm => exact addSimm8 rd imm
  | cpSimm8 rd imm => exact cpSimm8 rd imm
  | clrAddr16 addr => exact uop .clr .quad (.addr16 addr)
  | clrAddr32 addr => exact uop .clr .quad (.addr32 addr)
  | clrMem rd => exact uop .clr .quad (.mem rd)
  | clrInd rd off => exact uop .clr .quad (.ind rd off)
  | clrWAddr16 addr => exact uop .clr .word (.addr16 addr)
  | clrWAddr32 addr => exact uop .clr .word (.addr32 addr)
  | clrWMem rd => exact uop .clr .word (.mem rd)
  | clrWInd rd off => exact uop .clr .word (.ind rd off)
  | clrBAddr16 addr => exact uop .clr .byte (.addr16 addr)
  | clrBAddr32 addr => exact uop .clr .byte (.addr32 addr)
  | clrBMem rd => exact uop .clr .byte (.mem rd)
  | clrBInd rd off => exact uop .clr .byte (.ind rd off)
  | cpzAddr16 addr => exact uop .cpz .quad (.addr16 addr)
  | cpzAddr32 addr => exact uop .cpz .quad (.addr32 addr)
  | cpzMem rd => exact uop .cpz .quad (.mem rd)
  | cpzInd rd off => exact uop .cpz .quad (.ind rd off)
  | cpzWAddr16 addr => exact uop .cpz .word (.addr16 addr)
  | cpzWAddr32 addr => exact uop .cpz .word (.addr32 addr)
  | cpzWMem rd => exact uop .cpz .word (.mem rd)
  | cpzWInd rd off => exact uop .cpz .word (.ind rd off)
  | cpzBAddr16 addr => exact uop .cpz .byte (.addr16 addr)
  | cpzBAddr32 addr => exact uop .cpz .byte (.addr32 addr)
  | cpzBMem rd => exact uop .cpz .byte (.mem rd)
  | cpzBInd rd off => exact uop .cpz .byte (.ind rd off)
  | incAddr16 addr => exact uop .inc .quad (.addr16 addr)
  | incAddr32 addr => exact uop .inc .quad (.addr32 addr)
  | incMem rd => exact uop .inc .quad (.mem rd)
  | incInd rd off => exact uop .inc .quad (.ind rd off)
  | incWAddr16 addr => exact uop .inc .word (.addr16 addr)
  | incWAddr32 addr => exact uop .inc .word (.addr32 addr)
  | incWMem rd => exact uop .inc .word (.mem rd)
  | incWInd rd off => exact uop .inc .word (.ind rd off)
  | incBAddr16 addr => exact uop .inc .byte (.addr16 addr)
  | incBAddr32 addr => exact uop .inc .byte (.addr32 addr)
  | incBMem rd => exact uop .inc .byte (.mem rd)
  | incBInd rd off => exact uop .inc .byte (.ind rd off)
  | decAddr16 addr => exact uop .dec .quad (.addr16 addr)
  | decAddr32 addr => exact uop .dec .quad (.addr32 addr)
  | decMem rd => exact uop .dec .quad (.mem rd)
  | decInd rd off => exact uop .dec .quad (.ind rd off)
  | decWAddr16 addr => exact uop .dec .word (.addr16 addr)
  | decWAddr32 addr => exact uop .dec .word (.addr32 addr)
  | decWMem rd => exact uop .dec .word (.mem rd)
  | decWInd rd off => exact uop .dec .word (.ind rd off)
  | decBAddr16 addr => exact uop .dec .byte (.addr16 addr)
  | decBAddr32 addr => exact uop .dec .byte (.addr32 addr)
  | decBMem rd => exact uop .dec .byte (.mem rd)
  | decBInd rd off => exact uop .dec .byte (.ind rd off)
  | ldPc rd off => exact load .q rd (.pc off)
  | ldAddr16 rd addr => exact load .q rd (.addr16 addr)
  | ldAddr32 rd addr => exact load .q rd (.addr32 addr)
  | ldMem rd rs => exact load .q rd (.mem rs)
  | ldPostInc rd rs => exact load .q rd (.postInc rs)
  | ldInd rd rs off => exact load .q rd (.ind rs off)
  | ldFp rd off => exact load .q rd (.fp off)
  | ldUBPc rd off => exact load .ub rd (.pc off)
  | ldUBAddr16 rd addr => exact load .ub rd (.addr16 addr)
  | ldUBAddr32 rd addr => exact load .ub rd (.addr32 addr)
  | ldUBMem rd rs => exact load .ub rd (.mem rs)
  | ldUBPostInc rd rs => exact load .ub rd (.postInc rs)
  | ldUBInd rd rs off => exact load .ub rd (.ind rs off)
  | ldUBFp rd off => exact load .ub rd (.fp off)
  | ldUWPc rd off => exact load .uw rd (.pc off)
  | ldUWAddr16 rd addr => exact load .uw rd (.addr16 addr)
  | ldUWAddr32 rd addr => exact load .uw rd (.addr32 addr)
  | ldUWMem rd rs => exact load .uw rd (.mem rs)
  | ldUWPostInc rd rs => exact load .uw rd (.postInc rs)
  | ldUWInd rd rs off => exact load .uw rd (.ind rs off)
  | ldUWFp rd off => exact load .uw rd (.fp off)
  | ldSBPc rd off => exact load .sb rd (.pc off)
  | ldSBAddr16 rd addr => exact load .sb rd (.addr16 addr)
  | ldSBAddr32 rd addr => exact load .sb rd (.addr32 addr)
  | ldSBMem rd rs => exact load .sb rd (.mem rs)
  | ldSBPostInc rd rs => exact load .sb rd (.postInc rs)
  | ldSBInd rd rs off => exact load .sb rd (.ind rs off)
  | ldSBFp rd off => exact load .sb rd (.fp off)
  | ldSWPc rd off => exact load .sw rd (.pc off)
  | ldSWAddr16 rd addr => exact load .sw rd (.addr16 addr)
  | ldSWAddr32 rd addr => exact load .sw rd (.addr32 addr)
  | ldSWMem rd rs => exact load .sw rd (.mem rs)
  | ldSWPostInc rd rs => exact load .sw rd (.postInc rs)
  | ldSWInd rd rs off => exact load .sw rd (.ind rs off)
  | ldSWFp rd off => exact load .sw rd (.fp off)
  | ldToAddr16 addr rs => exact store .quad (.addr16 addr) rs
  | ldToAddr32 addr rs => exact store .quad (.addr32 addr) rs
  | ldToMem rd rs => exact store .quad (.mem rd) rs
  | ldToPre rd rs => exact store .quad (.preDec rd) rs
  | ldToPost rd rs => exact store .quad (.postInc rd) rs
  | ldToInd rd off rs => exact store .quad (.ind rd off) rs
  | ldToFp off rs => exact store .quad (.fp off) rs
  | ldWToAddr16 addr rs => exact store .word (.addr16 addr) rs
  | ldWToAddr32 addr rs => exact store .word (.addr32 addr) rs
  | ldWToMem rd rs => exact store .word (.mem rd) rs
  | ldWToPre rd rs => exact store .word (.preDec rd) rs
  | ldWToPost rd rs => exact store .word (.postInc rd) rs
  | ldWToInd rd off rs => exact store .word (.ind rd off) rs
  | ldWToFp off rs => exact store .word (.fp off) rs
  | ldBToAddr16 addr rs => exact store .byte (.addr16 addr) rs
  | ldBToAddr32 addr rs => exact store .byte (.addr32 addr) rs
  | ldBToMem rd rs => exact store .byte (.mem rd) rs
  | ldBToPre rd rs => exact store .byte (.preDec rd) rs
  | ldBToPost rd rs => exact store .byte (.postInc rd) rs
  | ldBToInd rd off rs => exact store .byte (.ind rd off) rs
  | ldBToFp off rs => exact store .byte (.fp off) rs
  | ldMemImm32 rd imm => exact storeImm .mem rd (.imm32 imm)
  | ldPreImm32 rd imm => exact storeImm .preDec rd (.imm32 imm)
  | ldPostImm32 rd imm => exact storeImm .postInc rd (.imm32 imm)
  | ldMemSimm16 rd imm => exact storeImm .mem rd (.simm16 imm)
  | ldPreSimm16 rd imm => exact storeImm .preDec rd (.simm16 imm)
  | ldPostSimm16 rd imm => exact storeImm .postInc rd (.simm16 imm)
  | ldWMemImm16 rd imm => exact storeImm .mem rd (.wImm16 imm)
  | ldWPreImm16 rd imm => exact storeImm .preDec rd (.wImm16 imm)
  | ldWPostImm16 rd imm => exact storeImm .postInc rd (.wImm16 imm)
  | ldBMemImm8 rd imm => exact storeImm .mem rd (.bImm8 imm)
  | ldBPreImm8 rd imm => exact storeImm .preDec rd (.bImm8 imm)
  | ldBPostImm8 rd imm => exact storeImm .postInc rd (.bImm8 imm)
  | ldSimm8 rd imm => exact ldSimm8 rd imm
  | ldSimm17 rd imm => exact ldSimm17 rd imm
  | ldImm32 rd imm => exact ldImm32 rd imm
  | ldReg rd rs => exact ldReg rd rs
  | ldCc cc rd => exact ldCc cc rd
  | ldes rd => exact ldes rd
  | leaPc rd off => exact leaPc rd off
  | leaInd rd rs off => exact leaInd rd rs off
  | leaFp rd off => exact leaFp rd off
  | extUB rd rs => exact extUB rd rs
  | extUW rd rs => exact extUW rd rs
  | extSB rd rs => exact extSB rd rs
  | extSW rd rs => exact extSW rd rs
  | com rd => exact com rd
  | neg rd => exact neg rd
  | pushBImm8 imm => exact pushBImm8 imm
  | pushWSimm8 imm => exact pushWSimm8 imm
  | pushSimm8 imm => exact pushSimm8 imm
  | pop rd => exact pop .q rd
  | popUB rd => exact pop .ub rd
  | popUW rd => exact pop .uw rd
  | popSB rd => exact pop .sb rd
  | popSW rd => exact pop .sw rd
  | pushmLo mask => exact pushmLo mask
  | pushmHi mask => exact pushmHi mask
  | popmLo mask => exact popmLo mask
  | popmHi mask => exact popmHi mask
  | pushf => exact pushf
  | popf => exact popf
  | link imm => exact link imm
  | unlink => exact unlink
  | udiv rd rs => exact udiv rd rs
  | sdiv rd rs => exact sdiv rd rs
  | umul rd rs => exact umul rd rs
  | smul rd rs => exact smul rd rs
  | mul rd rs => exact mul rd rs
  | sraReg rd rs => exact shiftReg .sra rd rs
  | srlReg rd rs => exact shiftReg .srl rd rs
  | sllReg rd rs => exact shiftReg .sll rd rs
  | rlReg rd rs => exact shiftReg .rl rd rs
  | sraImm rd imm => exact shiftImm .sra rd imm
  | srlImm rd imm => exact shiftImm .srl rd imm
  | sllImm rd imm => exact shiftImm .sll rd imm
  | rlImm rd imm => exact shiftImm .rl rd imm
  | jpRel12 rel => exact jpRel12 rel
  | jpRel24 rel => exact jpRel24 rel
  | jpInd rs => exact jpInd rs
  | jpCcRel8 cc rel => exact jpCcRel8 cc rel
  | jpCcRel16 cc rel => exact jpCcRel16 cc rel
  | jpa imm => exact jpa imm
  | callRel12 rel => exact callRel12 rel
  | callRel24 rel => exact callRel24 rel
  | callInd rs => exact callInd rs
  | calla imm => exact calla imm
  | djnz rd rel => exact djnz rd rel
  | trap vec => exact trap vec
  | ill => exact ill
  | ret => exact ret
  | iret => exact iret
  | brk => exact brk
  | atm => exact atm
  | noflags => exact noflags
  | extend => exact extendPrefix
  | wdt => exact wdt
  | stop => exact stop
  | halt => exact halt
  | ei => exact ei
  | di => exact di
  | nop => exact nop
  | cpczReg rd => exact cpczReg rd

end Sys2Proof.Machine
end

