-- ==== Sys2Proof/Laws/Flags.lean ====
section
/-! SUPPORT. The FLAGS byte bit by bit, and the additions and subtractions of Flags.lean as arithmetic on integers. -/

namespace Sys2Proof.Machine

/-! ### Bits of FLAGS -/

theorem getLsbD_putBit (i k : Nat) (b : Bool) (f : Byte) (hi : i < 8) (hk : k < 8) :
    (putBit i b f).getLsbD k = if k = i then b else f.getLsbD k := by
  unfold putBit
  have e : (1#8 <<< i).getLsbD k = decide (k = i) := by
    have : i = 0 ∨ i = 1 ∨ i = 2 ∨ i = 3 ∨ i = 4 ∨ i = 5 ∨ i = 6 ∨ i = 7 := by omega
    have : k = 0 ∨ k = 1 ∨ k = 2 ∨ k = 3 ∨ k = 4 ∨ k = 5 ∨ k = 6 ∨ k = 7 := by omega
    rcases ‹i = 0 ∨ _› with rfl | rfl | rfl | rfl | rfl | rfl | rfl | rfl <;>
    rcases ‹k = 0 ∨ _› with rfl | rfl | rfl | rfl | rfl | rfl | rfl | rfl <;> rfl
  cases b
  · simp only [Bool.false_eq_true, if_false, BitVec.getLsbD_and, BitVec.getLsbD_not, e]
    by_cases h : k = i <;> simp [h, hk]
  · simp only [if_true, BitVec.getLsbD_or, e]
    by_cases h : k = i <;> simp [h]

theorem getLsbD_putOpt (i k : Nat) (o : Option Bool) (f : Byte) (hi : i < 8) (hk : k < 8) :
    (putOpt i o f).getLsbD k = if k = i then o.getD (f.getLsbD k) else f.getLsbD k := by
  cases o with
  | none => simp [putOpt]
  | some b => simp only [putOpt, getLsbD_putBit i k b f hi hk, Option.getD_some]

@[simp] theorem flagC_applyPatch (p : FlagPatch) (f : Byte) : flagC (applyPatch p f) = p.c.getD (flagC f) := by
  unfold flagC applyPatch
  repeat rw [getLsbD_putOpt _ _ _ _ (by decide) (by decide)]
  simp

@[simp] theorem flagZ_applyPatch (p : FlagPatch) (f : Byte) : flagZ (applyPatch p f) = p.z.getD (flagZ f) := by
  unfold flagZ applyPatch
  repeat rw [getLsbD_putOpt _ _ _ _ (by decide) (by decide)]
  simp

@[simp] theorem flagS_applyPatch (p : FlagPatch) (f : Byte) : flagS (applyPatch p f) = p.s.getD (flagS f) := by
  unfold flagS applyPatch
  repeat rw [getLsbD_putOpt _ _ _ _ (by decide) (by decide)]
  simp

@[simp] theorem flagV_applyPatch (p : FlagPatch) (f : Byte) : flagV (applyPatch p f) = p.v.getD (flagV f) := by
  unfold flagV applyPatch
  repeat rw [getLsbD_putOpt _ _ _ _ (by decide) (by decide)]
  simp

@[simp] theorem flagB_applyPatch (p : FlagPatch) (f : Byte) : flagB (applyPatch p f) = p.b.getD (flagB f) := by
  unfold flagB applyPatch
  repeat rw [getLsbD_putOpt _ _ _ _ (by decide) (by decide)]
  simp

@[simp] theorem flagF1_applyPatch (p : FlagPatch) (f : Byte) : flagF1 (applyPatch p f) = flagF1 f := by
  unfold flagF1 applyPatch
  repeat rw [getLsbD_putOpt _ _ _ _ (by decide) (by decide)]
  simp

@[simp] theorem flagCirqe_applyPatch (p : FlagPatch) (f : Byte) : flagCirqe (applyPatch p f) = flagCirqe f := by
  unfold flagCirqe applyPatch
  repeat rw [getLsbD_putOpt _ _ _ _ (by decide) (by decide)]
  simp

@[simp] theorem flagIrqe_applyPatch (p : FlagPatch) (f : Byte) : flagIrqe (applyPatch p f) = flagIrqe f := by
  unfold flagIrqe applyPatch
  repeat rw [getLsbD_putOpt _ _ _ _ (by decide) (by decide)]
  simp

/-- Two bytes with the same eight bits are one byte. -/
theorem byte_eq_of_bits (a b : Byte) (h7 : a.getLsbD 7 = b.getLsbD 7) (h6 : a.getLsbD 6 = b.getLsbD 6)
    (h5 : a.getLsbD 5 = b.getLsbD 5) (h4 : a.getLsbD 4 = b.getLsbD 4) (h3 : a.getLsbD 3 = b.getLsbD 3)
    (h2 : a.getLsbD 2 = b.getLsbD 2) (h1 : a.getLsbD 1 = b.getLsbD 1) (h0 : a.getLsbD 0 = b.getLsbD 0) : a = b := by
  apply BitVec.eq_of_getLsbD_eq
  intro k hk
  have : k = 0 ∨ k = 1 ∨ k = 2 ∨ k = 3 ∨ k = 4 ∨ k = 5 ∨ k = 6 ∨ k = 7 := by omega
  rcases this with rfl | rfl | rfl | rfl | rfl | rfl | rfl | rfl <;> assumption

/-! ### Sums and differences -/

theorem carryNat_cases (c : Bool) : carryNat c = 0 ∨ carryNat c = 1 := by cases c <;> simp [carryNat]

theorem add_v_nat (x y c q : Nat) (hc : c = 0 ∨ c = 1) (hx : x < 2 * q) (hy : y < 2 * q) :
    (decide (q ≤ x) == decide (q ≤ y) && decide (q ≤ (x + y + c) % (2 * q)) != decide (q ≤ x))
    = decide (2 * (((if 2 * x < 2 * q then (x : Int) else x - (2 * q : Nat)) + (if 2 * y < 2 * q then (y : Int) else y - (2 * q : Nat))) + c) < -(2 * q : Int)
      ∨ (2 * q : Int) ≤ 2 * (((if 2 * x < 2 * q then (x : Int) else x - (2 * q : Nat)) + (if 2 * y < 2 * q then (y : Int) else y - (2 * q : Nat))) + c)) := by
  have hm : (x + y + c) % (2 * q) = if x + y + c < 2 * q then x + y + c else x + y + c - 2 * q := by
    split
    · exact Nat.mod_eq_of_lt ‹_›
    · rw [Nat.mod_eq_sub_mod (by omega), Nat.mod_eq_of_lt (by omega)]
  rw [hm, Bool.eq_iff_iff]
  simp only [Bool.and_eq_true, beq_iff_eq, bne_iff_ne, decide_eq_decide, ne_eq, decide_eq_true_eq]
  repeat' split
  all_goals omega

theorem sub_v_nat (x y c q : Nat) (hc : c = 0 ∨ c = 1) (hx : x < 2 * q) (hy : y < 2 * q) :
    (decide (q ≤ x) != decide (q ≤ y) && decide (q ≤ (2 * q - c + (2 * q - y + x) % (2 * q)) % (2 * q)) == decide (q ≤ y))
    = decide (2 * (((if 2 * x < 2 * q then (x : Int) else x - (2 * q : Nat)) - (if 2 * y < 2 * q then (y : Int) else y - (2 * q : Nat))) - c) < -(2 * q : Int)
      ∨ (2 * q : Int) ≤ 2 * (((if 2 * x < 2 * q then (x : Int) else x - (2 * q : Nat)) - (if 2 * y < 2 * q then (y : Int) else y - (2 * q : Nat))) - c)) := by
  have hm1 : (2 * q - y + x) % (2 * q) = if y ≤ x then x - y else 2 * q - y + x := by
    split
    · rw [Nat.mod_eq_sub_mod (by omega), Nat.mod_eq_of_lt (by omega)]; omega
    · exact Nat.mod_eq_of_lt (by omega)
  have hm : (2 * q - c + (2 * q - y + x) % (2 * q)) % (2 * q) = if y + c ≤ x then x - y - c else 2 * q + x - y - c := by
    rw [hm1]
    split <;> split
    · rw [Nat.mod_eq_sub_mod (by omega), Nat.mod_eq_of_lt (by omega)]; omega
    · rw [Nat.mod_eq_of_lt (by omega)]; omega
    · omega
    · rw [Nat.mod_eq_sub_mod (by omega), Nat.mod_eq_of_lt (by omega)]; omega
  rw [hm, Bool.eq_iff_iff]
  simp only [Bool.and_eq_true, beq_iff_eq, bne_iff_ne, decide_eq_decide, ne_eq, decide_eq_true_eq]
  repeat' split
  all_goals omega

/-- V of an addition is signed overflow (R200). -/
theorem addFlags_v {n : Nat} (hn : 0 < n) (a b : BitVec n) (cin : Bool) :
    (addFlags a b cin).v = decide (2 * (a.toInt + b.toInt + (carryNat cin : Nat)) < -(2 ^ n : Int) ∨
      (2 ^ n : Int) ≤ 2 * (a.toInt + b.toInt + (carryNat cin : Nat))) := by
  have ha := a.isLt; have hb := b.isLt
  obtain ⟨m, rfl⟩ : ∃ m, n = m + 1 := ⟨n - 1, by omega⟩
  have hp : (2:Nat) ^ (m+1) = 2 * 2 ^ m := by rw [Nat.pow_succ]; omega
  have hci : (2:Int) ^ (m+1) = 2 * ((2 ^ m : Nat) : Int) := by push_cast; rw [Int.pow_succ]; omega
  have := add_v_nat a.toNat b.toNat (carryNat cin) (2 ^ m) (carryNat_cases cin) (by omega) (by omega)
  unfold addFlags
  simp only [BitVec.msb_eq_decide, BitVec.toInt_eq_toNat_cond, BitVec.toNat_ofNat, Nat.add_sub_cancel, hci, hp]
  exact this

theorem sub_toNat {n : Nat} (hn : 0 < n) (a b : BitVec n) (bin : Bool) :
    (a - b - BitVec.ofNat n (carryNat bin)).toNat = (2 ^ n - carryNat bin + (2 ^ n - b.toNat + a.toNat) % 2 ^ n) % 2 ^ n := by
  have hc := carryNat_cases bin
  have h2 : 2 ≤ 2 ^ n := by
    calc 2 = 2 ^ 1 := rfl
    _ ≤ 2 ^ n := Nat.pow_le_pow_right (by decide) hn
  rw [BitVec.toNat_sub, BitVec.toNat_sub, BitVec.toNat_ofNat, Nat.mod_eq_of_lt (show carryNat bin < 2 ^ n by omega)]

/-- V of a subtraction is signed overflow (R201). -/
theorem subFlags_v {n : Nat} (hn : 0 < n) (a b : BitVec n) (bin : Bool) :
    (subFlags a b bin).v = decide (2 * (a.toInt - b.toInt - (carryNat bin : Nat)) < -(2 ^ n : Int) ∨
      (2 ^ n : Int) ≤ 2 * (a.toInt - b.toInt - (carryNat bin : Nat))) := by
  have ha := a.isLt; have hb := b.isLt
  have hs := sub_toNat hn a b bin
  obtain ⟨m, rfl⟩ : ∃ m, n = m + 1 := ⟨n - 1, by omega⟩
  have hp : (2:Nat) ^ (m+1) = 2 * 2 ^ m := by rw [Nat.pow_succ]; omega
  have hci : (2:Int) ^ (m+1) = 2 * ((2 ^ m : Nat) : Int) := by push_cast; rw [Int.pow_succ]; omega
  have := sub_v_nat a.toNat b.toNat (carryNat bin) (2 ^ m) (carryNat_cases bin) (by omega) (by omega)
  unfold subFlags
  simp only [BitVec.msb_eq_decide, BitVec.toInt_eq_toNat_cond, hs, Nat.add_sub_cancel, hci, hp]
  exact this

/-- The difference modulo 2^n (R201). -/
theorem subFlags_r {n : Nat} (hn : 0 < n) (a b : BitVec n) (bin : Bool) : 
    ((subFlags a b bin).r.toNat : Int) = (a.toNat - b.toNat - carryNat bin) % (2 ^ n : Int) := by
  have ha := a.isLt; have hb := b.isLt
  have hs := sub_toNat hn a b bin
  have hc := carryNat_cases bin
  have h2 : 2 ≤ 2 ^ n := by
    calc 2 = 2 ^ 1 := rfl
    _ ≤ 2 ^ n := Nat.pow_le_pow_right (by decide) hn
  have hci : (2:Int) ^ n = ((2 ^ n : Nat) : Int) := by push_cast; rfl
  unfold subFlags
  simp only
  rw [hs, hci]
  generalize 2 ^ n = q at *
  have hm1 : (q - b.toNat + a.toNat) % q = if b.toNat ≤ a.toNat then a.toNat - b.toNat else q - b.toNat + a.toNat := by
    split
    · rw [Nat.mod_eq_sub_mod (by omega), Nat.mod_eq_of_lt (by omega)]; omega
    · exact Nat.mod_eq_of_lt (by omega)
  have hm : (q - carryNat bin + (q - b.toNat + a.toNat) % q) % q = if b.toNat + carryNat bin ≤ a.toNat then a.toNat - b.toNat - carryNat bin else q + a.toNat - b.toNat - carryNat bin := by
    rw [hm1]
    split <;> split
    · rw [Nat.mod_eq_sub_mod (by omega), Nat.mod_eq_of_lt (by omega)]; omega
    · rw [Nat.mod_eq_of_lt (by omega)]; omega
    · omega
    · rw [Nat.mod_eq_sub_mod (by omega), Nat.mod_eq_of_lt (by omega)]; omega
  rw [hm]
  split
  · rw [Int.emod_eq_of_lt (by omega) (by omega)]; omega
  · rw [← Int.add_emod_right, Int.emod_eq_of_lt (by omega) (by omega)]; omega

/-- The sum modulo 2^n (R200). -/
theorem addFlags_r {n : Nat} (a b : BitVec n) (cin : Bool) : 
    (addFlags a b cin).r.toNat = (a.toNat + b.toNat + carryNat cin) % 2 ^ n := by
  unfold addFlags; simp

end Sys2Proof.Machine
end

