-- ==== Sys2Proof/Laws/PerInstr.lean ====
section
/-! SUPPORT. Statements made once per instruction. `EncodeLength`: an instruction has as many words as its first word says
(R122). -/

namespace Sys2Proof.Laws

/-- The encoding of an instruction has the length that its word 0 gives (R122). -/
def EncodeLength.Statement (i : Instr) : Prop := (encode i).length = instrWords ((encode i).headD 0#16)

theorem EncodeLength.of_encode {i : Instr} (ws : List Word) (h : encode i = ws)
    (hw : ws.length = instrWords (ws.headD 0#16)) : EncodeLength.Statement i := by
  unfold EncodeLength.Statement
  rw [h]
  exact hw

theorem EncodeLength.addImm32 (rd : Reg) (imm : BitVec 32) : EncodeLength.Statement (.addImm32 rd imm) :=
  EncodeLength.of_encode _ rfl (encodeBop_length .add (.imm32 rd imm))
theorem EncodeLength.addUimm16 (rd : Reg) (imm : BitVec 16) : EncodeLength.Statement (.addUimm16 rd imm) :=
  EncodeLength.of_encode _ rfl (encodeBop_length .add (.uimm16 rd imm))
theorem EncodeLength.addReg (rd : Reg) (rs : Reg) : EncodeLength.Statement (.addReg rd rs) :=
  EncodeLength.of_encode _ rfl (encodeBop_length .add (.reg rd rs))
theorem EncodeLength.addAddr16 (rd : Reg) (addr : BitVec 16) : EncodeLength.Statement (.addAddr16 rd addr) :=
  EncodeLength.of_encode _ rfl (encodeBop_length .add (.load .q rd (.addr16 addr)))
theorem EncodeLength.addAddr32 (rd : Reg) (addr : BitVec 32) : EncodeLength.Statement (.addAddr32 rd addr) :=
  EncodeLength.of_encode _ rfl (encodeBop_length .add (.load .q rd (.addr32 addr)))
theorem EncodeLength.addInd (rd : Reg) (rs : Reg) (off : BitVec 13) : EncodeLength.Statement (.addInd rd rs off) :=
  EncodeLength.of_encode _ rfl (encodeBop_length .add (.load .q rd (.ind rs off)))
theorem EncodeLength.addSWAddr16 (rd : Reg) (addr : BitVec 16) : EncodeLength.Statement (.addSWAddr16 rd addr) :=
  EncodeLength.of_encode _ rfl (encodeBop_length .add (.load .sw rd (.addr16 addr)))
theorem EncodeLength.addSWAddr32 (rd : Reg) (addr : BitVec 32) : EncodeLength.Statement (.addSWAddr32 rd addr) :=
  EncodeLength.of_encode _ rfl (encodeBop_length .add (.load .sw rd (.addr32 addr)))
theorem EncodeLength.addSWInd (rd : Reg) (rs : Reg) (off : BitVec 13) : EncodeLength.Statement (.addSWInd rd rs off) :=
  EncodeLength.of_encode _ rfl (encodeBop_length .add (.load .sw rd (.ind rs off)))
theorem EncodeLength.addUWAddr16 (rd : Reg) (addr : BitVec 16) : EncodeLength.Statement (.addUWAddr16 rd addr) :=
  EncodeLength.of_encode _ rfl (encodeBop_length .add (.load .uw rd (.addr16 addr)))
theorem EncodeLength.addUWAddr32 (rd : Reg) (addr : BitVec 32) : EncodeLength.Statement (.addUWAddr32 rd addr) :=
  EncodeLength.of_encode _ rfl (encodeBop_length .add (.load .uw rd (.addr32 addr)))
theorem EncodeLength.addUWInd (rd : Reg) (rs : Reg) (off : BitVec 13) : EncodeLength.Statement (.addUWInd rd rs off) :=
  EncodeLength.of_encode _ rfl (encodeBop_length .add (.load .uw rd (.ind rs off)))
theorem EncodeLength.addSBAddr16 (rd : Reg) (addr : BitVec 16) : EncodeLength.Statement (.addSBAddr16 rd addr) :=
  EncodeLength.of_encode _ rfl (encodeBop_length .add (.load .sb rd (.addr16 addr)))
theorem EncodeLength.addSBAddr32 (rd : Reg) (addr : BitVec 32) : EncodeLength.Statement (.addSBAddr32 rd addr) :=
  EncodeLength.of_encode _ rfl (encodeBop_length .add (.load .sb rd (.addr32 addr)))
theorem EncodeLength.addSBInd (rd : Reg) (rs : Reg) (off : BitVec 13) : EncodeLength.Statement (.addSBInd rd rs off) :=
  EncodeLength.of_encode _ rfl (encodeBop_length .add (.load .sb rd (.ind rs off)))
theorem EncodeLength.addUBAddr16 (rd : Reg) (addr : BitVec 16) : EncodeLength.Statement (.addUBAddr16 rd addr) :=
  EncodeLength.of_encode _ rfl (encodeBop_length .add (.load .ub rd (.addr16 addr)))
theorem EncodeLength.addUBAddr32 (rd : Reg) (addr : BitVec 32) : EncodeLength.Statement (.addUBAddr32 rd addr) :=
  EncodeLength.of_encode _ rfl (encodeBop_length .add (.load .ub rd (.addr32 addr)))
theorem EncodeLength.addUBInd (rd : Reg) (rs : Reg) (off : BitVec 13) : EncodeLength.Statement (.addUBInd rd rs off) :=
  EncodeLength.of_encode _ rfl (encodeBop_length .add (.load .ub rd (.ind rs off)))
theorem EncodeLength.addToAddr16 (addr : BitVec 16) (rs : Reg) : EncodeLength.Statement (.addToAddr16 addr rs) :=
  EncodeLength.of_encode _ rfl (encodeBop_length .add (.store .quad (.addr16 addr) rs))
theorem EncodeLength.addToAddr32 (addr : BitVec 32) (rs : Reg) : EncodeLength.Statement (.addToAddr32 addr rs) :=
  EncodeLength.of_encode _ rfl (encodeBop_length .add (.store .quad (.addr32 addr) rs))
theorem EncodeLength.addToInd (rd : Reg) (off : BitVec 13) (rs : Reg) : EncodeLength.Statement (.addToInd rd off rs) :=
  EncodeLength.of_encode _ rfl (encodeBop_length .add (.store .quad (.ind rd off) rs))
theorem EncodeLength.addWToAddr16 (addr : BitVec 16) (rs : Reg) : EncodeLength.Statement (.addWToAddr16 addr rs) :=
  EncodeLength.of_encode _ rfl (encodeBop_length .add (.store .word (.addr16 addr) rs))
theorem EncodeLength.addWToAddr32 (addr : BitVec 32) (rs : Reg) : EncodeLength.Statement (.addWToAddr32 addr rs) :=
  EncodeLength.of_encode _ rfl (encodeBop_length .add (.store .word (.addr32 addr) rs))
theorem EncodeLength.addWToInd (rd : Reg) (off : BitVec 13) (rs : Reg) : EncodeLength.Statement (.addWToInd rd off rs) :=
  EncodeLength.of_encode _ rfl (encodeBop_length .add (.store .word (.ind rd off) rs))
theorem EncodeLength.addBToAddr16 (addr : BitVec 16) (rs : Reg) : EncodeLength.Statement (.addBToAddr16 addr rs) :=
  EncodeLength.of_encode _ rfl (encodeBop_length .add (.store .byte (.addr16 addr) rs))
theorem EncodeLength.addBToAddr32 (addr : BitVec 32) (rs : Reg) : EncodeLength.Statement (.addBToAddr32 addr rs) :=
  EncodeLength.of_encode _ rfl (encodeBop_length .add (.store .byte (.addr32 addr) rs))
theorem EncodeLength.addBToInd (rd : Reg) (off : BitVec 13) (rs : Reg) : EncodeLength.Statement (.addBToInd rd off rs) :=
  EncodeLength.of_encode _ rfl (encodeBop_length .add (.store .byte (.ind rd off) rs))
theorem EncodeLength.addMemImm32 (rd : Reg) (imm : BitVec 32) : EncodeLength.Statement (.addMemImm32 rd imm) :=
  EncodeLength.of_encode _ rfl (encodeBop_length .add (.memImm32 rd imm))
theorem EncodeLength.addMemSimm16 (rd : Reg) (imm : BitVec 16) : EncodeLength.Statement (.addMemSimm16 rd imm) :=
  EncodeLength.of_encode _ rfl (encodeBop_length .add (.memSimm16 rd imm))
theorem EncodeLength.addWMemImm16 (rd : Reg) (imm : BitVec 16) : EncodeLength.Statement (.addWMemImm16 rd imm) :=
  EncodeLength.of_encode _ rfl (encodeBop_length .add (.memWImm16 rd imm))
theorem EncodeLength.addBMemImm8 (rd : Reg) (imm : BitVec 8) : EncodeLength.Statement (.addBMemImm8 rd imm) :=
  EncodeLength.of_encode _ rfl (encodeBop_length .add (.memBImm8 rd imm))
theorem EncodeLength.subImm32 (rd : Reg) (imm : BitVec 32) : EncodeLength.Statement (.subImm32 rd imm) :=
  EncodeLength.of_encode _ rfl (encodeBop_length .sub (.imm32 rd imm))
theorem EncodeLength.subUimm16 (rd : Reg) (imm : BitVec 16) : EncodeLength.Statement (.subUimm16 rd imm) :=
  EncodeLength.of_encode _ rfl (encodeBop_length .sub (.uimm16 rd imm))
theorem EncodeLength.subReg (rd : Reg) (rs : Reg) : EncodeLength.Statement (.subReg rd rs) :=
  EncodeLength.of_encode _ rfl (encodeBop_length .sub (.reg rd rs))
theorem EncodeLength.subAddr16 (rd : Reg) (addr : BitVec 16) : EncodeLength.Statement (.subAddr16 rd addr) :=
  EncodeLength.of_encode _ rfl (encodeBop_length .sub (.load .q rd (.addr16 addr)))
theorem EncodeLength.subAddr32 (rd : Reg) (addr : BitVec 32) : EncodeLength.Statement (.subAddr32 rd addr) :=
  EncodeLength.of_encode _ rfl (encodeBop_length .sub (.load .q rd (.addr32 addr)))
theorem EncodeLength.subInd (rd : Reg) (rs : Reg) (off : BitVec 13) : EncodeLength.Statement (.subInd rd rs off) :=
  EncodeLength.of_encode _ rfl (encodeBop_length .sub (.load .q rd (.ind rs off)))
theorem EncodeLength.subSWAddr16 (rd : Reg) (addr : BitVec 16) : EncodeLength.Statement (.subSWAddr16 rd addr) :=
  EncodeLength.of_encode _ rfl (encodeBop_length .sub (.load .sw rd (.addr16 addr)))
theorem EncodeLength.subSWAddr32 (rd : Reg) (addr : BitVec 32) : EncodeLength.Statement (.subSWAddr32 rd addr) :=
  EncodeLength.of_encode _ rfl (encodeBop_length .sub (.load .sw rd (.addr32 addr)))
theorem EncodeLength.subSWInd (rd : Reg) (rs : Reg) (off : BitVec 13) : EncodeLength.Statement (.subSWInd rd rs off) :=
  EncodeLength.of_encode _ rfl (encodeBop_length .sub (.load .sw rd (.ind rs off)))
theorem EncodeLength.subUWAddr16 (rd : Reg) (addr : BitVec 16) : EncodeLength.Statement (.subUWAddr16 rd addr) :=
  EncodeLength.of_encode _ rfl (encodeBop_length .sub (.load .uw rd (.addr16 addr)))
theorem EncodeLength.subUWAddr32 (rd : Reg) (addr : BitVec 32) : EncodeLength.Statement (.subUWAddr32 rd addr) :=
  EncodeLength.of_encode _ rfl (encodeBop_length .sub (.load .uw rd (.addr32 addr)))
theorem EncodeLength.subUWInd (rd : Reg) (rs : Reg) (off : BitVec 13) : EncodeLength.Statement (.subUWInd rd rs off) :=
  EncodeLength.of_encode _ rfl (encodeBop_length .sub (.load .uw rd (.ind rs off)))
theorem EncodeLength.subSBAddr16 (rd : Reg) (addr : BitVec 16) : EncodeLength.Statement (.subSBAddr16 rd addr) :=
  EncodeLength.of_encode _ rfl (encodeBop_length .sub (.load .sb rd (.addr16 addr)))
theorem EncodeLength.subSBAddr32 (rd : Reg) (addr : BitVec 32) : EncodeLength.Statement (.subSBAddr32 rd addr) :=
  EncodeLength.of_encode _ rfl (encodeBop_length .sub (.load .sb rd (.addr32 addr)))
theorem EncodeLength.subSBInd (rd : Reg) (rs : Reg) (off : BitVec 13) : EncodeLength.Statement (.subSBInd rd rs off) :=
  EncodeLength.of_encode _ rfl (encodeBop_length .sub (.load .sb rd (.ind rs off)))
theorem EncodeLength.subUBAddr16 (rd : Reg) (addr : BitVec 16) : EncodeLength.Statement (.subUBAddr16 rd addr) :=
  EncodeLength.of_encode _ rfl (encodeBop_length .sub (.load .ub rd (.addr16 addr)))
theorem EncodeLength.subUBAddr32 (rd : Reg) (addr : BitVec 32) : EncodeLength.Statement (.subUBAddr32 rd addr) :=
  EncodeLength.of_encode _ rfl (encodeBop_length .sub (.load .ub rd (.addr32 addr)))
theorem EncodeLength.subUBInd (rd : Reg) (rs : Reg) (off : BitVec 13) : EncodeLength.Statement (.subUBInd rd rs off) :=
  EncodeLength.of_encode _ rfl (encodeBop_length .sub (.load .ub rd (.ind rs off)))
theorem EncodeLength.subToAddr16 (addr : BitVec 16) (rs : Reg) : EncodeLength.Statement (.subToAddr16 addr rs) :=
  EncodeLength.of_encode _ rfl (encodeBop_length .sub (.store .quad (.addr16 addr) rs))
theorem EncodeLength.subToAddr32 (addr : BitVec 32) (rs : Reg) : EncodeLength.Statement (.subToAddr32 addr rs) :=
  EncodeLength.of_encode _ rfl (encodeBop_length .sub (.store .quad (.addr32 addr) rs))
theorem EncodeLength.subToInd (rd : Reg) (off : BitVec 13) (rs : Reg) : EncodeLength.Statement (.subToInd rd off rs) :=
  EncodeLength.of_encode _ rfl (encodeBop_length .sub (.store .quad (.ind rd off) rs))
theorem EncodeLength.subWToAddr16 (addr : BitVec 16) (rs : Reg) : EncodeLength.Statement (.subWToAddr16 addr rs) :=
  EncodeLength.of_encode _ rfl (encodeBop_length .sub (.store .word (.addr16 addr) rs))
theorem EncodeLength.subWToAddr32 (addr : BitVec 32) (rs : Reg) : EncodeLength.Statement (.subWToAddr32 addr rs) :=
  EncodeLength.of_encode _ rfl (encodeBop_length .sub (.store .word (.addr32 addr) rs))
theorem EncodeLength.subWToInd (rd : Reg) (off : BitVec 13) (rs : Reg) : EncodeLength.Statement (.subWToInd rd off rs) :=
  EncodeLength.of_encode _ rfl (encodeBop_length .sub (.store .word (.ind rd off) rs))
theorem EncodeLength.subBToAddr16 (addr : BitVec 16) (rs : Reg) : EncodeLength.Statement (.subBToAddr16 addr rs) :=
  EncodeLength.of_encode _ rfl (encodeBop_length .sub (.store .byte (.addr16 addr) rs))
theorem EncodeLength.subBToAddr32 (addr : BitVec 32) (rs : Reg) : EncodeLength.Statement (.subBToAddr32 addr rs) :=
  EncodeLength.of_encode _ rfl (encodeBop_length .sub (.store .byte (.addr32 addr) rs))
theorem EncodeLength.subBToInd (rd : Reg) (off : BitVec 13) (rs : Reg) : EncodeLength.Statement (.subBToInd rd off rs) :=
  EncodeLength.of_encode _ rfl (encodeBop_length .sub (.store .byte (.ind rd off) rs))
theorem EncodeLength.subMemImm32 (rd : Reg) (imm : BitVec 32) : EncodeLength.Statement (.subMemImm32 rd imm) :=
  EncodeLength.of_encode _ rfl (encodeBop_length .sub (.memImm32 rd imm))
theorem EncodeLength.subMemSimm16 (rd : Reg) (imm : BitVec 16) : EncodeLength.Statement (.subMemSimm16 rd imm) :=
  EncodeLength.of_encode _ rfl (encodeBop_length .sub (.memSimm16 rd imm))
theorem EncodeLength.subWMemImm16 (rd : Reg) (imm : BitVec 16) : EncodeLength.Statement (.subWMemImm16 rd imm) :=
  EncodeLength.of_encode _ rfl (encodeBop_length .sub (.memWImm16 rd imm))
theorem EncodeLength.subBMemImm8 (rd : Reg) (imm : BitVec 8) : EncodeLength.Statement (.subBMemImm8 rd imm) :=
  EncodeLength.of_encode _ rfl (encodeBop_length .sub (.memBImm8 rd imm))
theorem EncodeLength.andImm32 (rd : Reg) (imm : BitVec 32) : EncodeLength.Statement (.andImm32 rd imm) :=
  EncodeLength.of_encode _ rfl (encodeBop_length .and (.imm32 rd imm))
theorem EncodeLength.andUimm16 (rd : Reg) (imm : BitVec 16) : EncodeLength.Statement (.andUimm16 rd imm) :=
  EncodeLength.of_encode _ rfl (encodeBop_length .and (.uimm16 rd imm))
theorem EncodeLength.andReg (rd : Reg) (rs : Reg) : EncodeLength.Statement (.andReg rd rs) :=
  EncodeLength.of_encode _ rfl (encodeBop_length .and (.reg rd rs))
theorem EncodeLength.andAddr16 (rd : Reg) (addr : BitVec 16) : EncodeLength.Statement (.andAddr16 rd addr) :=
  EncodeLength.of_encode _ rfl (encodeBop_length .and (.load .q rd (.addr16 addr)))
theorem EncodeLength.andAddr32 (rd : Reg) (addr : BitVec 32) : EncodeLength.Statement (.andAddr32 rd addr) :=
  EncodeLength.of_encode _ rfl (encodeBop_length .and (.load .q rd (.addr32 addr)))
theorem EncodeLength.andInd (rd : Reg) (rs : Reg) (off : BitVec 13) : EncodeLength.Statement (.andInd rd rs off) :=
  EncodeLength.of_encode _ rfl (encodeBop_length .and (.load .q rd (.ind rs off)))
theorem EncodeLength.andSWAddr16 (rd : Reg) (addr : BitVec 16) : EncodeLength.Statement (.andSWAddr16 rd addr) :=
  EncodeLength.of_encode _ rfl (encodeBop_length .and (.load .sw rd (.addr16 addr)))
theorem EncodeLength.andSWAddr32 (rd : Reg) (addr : BitVec 32) : EncodeLength.Statement (.andSWAddr32 rd addr) :=
  EncodeLength.of_encode _ rfl (encodeBop_length .and (.load .sw rd (.addr32 addr)))
theorem EncodeLength.andSWInd (rd : Reg) (rs : Reg) (off : BitVec 13) : EncodeLength.Statement (.andSWInd rd rs off) :=
  EncodeLength.of_encode _ rfl (encodeBop_length .and (.load .sw rd (.ind rs off)))
theorem EncodeLength.andUWAddr16 (rd : Reg) (addr : BitVec 16) : EncodeLength.Statement (.andUWAddr16 rd addr) :=
  EncodeLength.of_encode _ rfl (encodeBop_length .and (.load .uw rd (.addr16 addr)))
theorem EncodeLength.andUWAddr32 (rd : Reg) (addr : BitVec 32) : EncodeLength.Statement (.andUWAddr32 rd addr) :=
  EncodeLength.of_encode _ rfl (encodeBop_length .and (.load .uw rd (.addr32 addr)))
theorem EncodeLength.andUWInd (rd : Reg) (rs : Reg) (off : BitVec 13) : EncodeLength.Statement (.andUWInd rd rs off) :=
  EncodeLength.of_encode _ rfl (encodeBop_length .and (.load .uw rd (.ind rs off)))
theorem EncodeLength.andSBAddr16 (rd : Reg) (addr : BitVec 16) : EncodeLength.Statement (.andSBAddr16 rd addr) :=
  EncodeLength.of_encode _ rfl (encodeBop_length .and (.load .sb rd (.addr16 addr)))
theorem EncodeLength.andSBAddr32 (rd : Reg) (addr : BitVec 32) : EncodeLength.Statement (.andSBAddr32 rd addr) :=
  EncodeLength.of_encode _ rfl (encodeBop_length .and (.load .sb rd (.addr32 addr)))
theorem EncodeLength.andSBInd (rd : Reg) (rs : Reg) (off : BitVec 13) : EncodeLength.Statement (.andSBInd rd rs off) :=
  EncodeLength.of_encode _ rfl (encodeBop_length .and (.load .sb rd (.ind rs off)))
theorem EncodeLength.andUBAddr16 (rd : Reg) (addr : BitVec 16) : EncodeLength.Statement (.andUBAddr16 rd addr) :=
  EncodeLength.of_encode _ rfl (encodeBop_length .and (.load .ub rd (.addr16 addr)))
theorem EncodeLength.andUBAddr32 (rd : Reg) (addr : BitVec 32) : EncodeLength.Statement (.andUBAddr32 rd addr) :=
  EncodeLength.of_encode _ rfl (encodeBop_length .and (.load .ub rd (.addr32 addr)))
theorem EncodeLength.andUBInd (rd : Reg) (rs : Reg) (off : BitVec 13) : EncodeLength.Statement (.andUBInd rd rs off) :=
  EncodeLength.of_encode _ rfl (encodeBop_length .and (.load .ub rd (.ind rs off)))
theorem EncodeLength.andToAddr16 (addr : BitVec 16) (rs : Reg) : EncodeLength.Statement (.andToAddr16 addr rs) :=
  EncodeLength.of_encode _ rfl (encodeBop_length .and (.store .quad (.addr16 addr) rs))
theorem EncodeLength.andToAddr32 (addr : BitVec 32) (rs : Reg) : EncodeLength.Statement (.andToAddr32 addr rs) :=
  EncodeLength.of_encode _ rfl (encodeBop_length .and (.store .quad (.addr32 addr) rs))
theorem EncodeLength.andToInd (rd : Reg) (off : BitVec 13) (rs : Reg) : EncodeLength.Statement (.andToInd rd off rs) :=
  EncodeLength.of_encode _ rfl (encodeBop_length .and (.store .quad (.ind rd off) rs))
theorem EncodeLength.andWToAddr16 (addr : BitVec 16) (rs : Reg) : EncodeLength.Statement (.andWToAddr16 addr rs) :=
  EncodeLength.of_encode _ rfl (encodeBop_length .and (.store .word (.addr16 addr) rs))
theorem EncodeLength.andWToAddr32 (addr : BitVec 32) (rs : Reg) : EncodeLength.Statement (.andWToAddr32 addr rs) :=
  EncodeLength.of_encode _ rfl (encodeBop_length .and (.store .word (.addr32 addr) rs))
theorem EncodeLength.andWToInd (rd : Reg) (off : BitVec 13) (rs : Reg) : EncodeLength.Statement (.andWToInd rd off rs) :=
  EncodeLength.of_encode _ rfl (encodeBop_length .and (.store .word (.ind rd off) rs))
theorem EncodeLength.andBToAddr16 (addr : BitVec 16) (rs : Reg) : EncodeLength.Statement (.andBToAddr16 addr rs) :=
  EncodeLength.of_encode _ rfl (encodeBop_length .and (.store .byte (.addr16 addr) rs))
theorem EncodeLength.andBToAddr32 (addr : BitVec 32) (rs : Reg) : EncodeLength.Statement (.andBToAddr32 addr rs) :=
  EncodeLength.of_encode _ rfl (encodeBop_length .and (.store .byte (.addr32 addr) rs))
theorem EncodeLength.andBToInd (rd : Reg) (off : BitVec 13) (rs : Reg) : EncodeLength.Statement (.andBToInd rd off rs) :=
  EncodeLength.of_encode _ rfl (encodeBop_length .and (.store .byte (.ind rd off) rs))
theorem EncodeLength.andMemImm32 (rd : Reg) (imm : BitVec 32) : EncodeLength.Statement (.andMemImm32 rd imm) :=
  EncodeLength.of_encode _ rfl (encodeBop_length .and (.memImm32 rd imm))
theorem EncodeLength.andMemSimm16 (rd : Reg) (imm : BitVec 16) : EncodeLength.Statement (.andMemSimm16 rd imm) :=
  EncodeLength.of_encode _ rfl (encodeBop_length .and (.memSimm16 rd imm))
theorem EncodeLength.andWMemImm16 (rd : Reg) (imm : BitVec 16) : EncodeLength.Statement (.andWMemImm16 rd imm) :=
  EncodeLength.of_encode _ rfl (encodeBop_length .and (.memWImm16 rd imm))
theorem EncodeLength.andBMemImm8 (rd : Reg) (imm : BitVec 8) : EncodeLength.Statement (.andBMemImm8 rd imm) :=
  EncodeLength.of_encode _ rfl (encodeBop_length .and (.memBImm8 rd imm))
theorem EncodeLength.orImm32 (rd : Reg) (imm : BitVec 32) : EncodeLength.Statement (.orImm32 rd imm) :=
  EncodeLength.of_encode _ rfl (encodeBop_length .or (.imm32 rd imm))
theorem EncodeLength.orUimm16 (rd : Reg) (imm : BitVec 16) : EncodeLength.Statement (.orUimm16 rd imm) :=
  EncodeLength.of_encode _ rfl (encodeBop_length .or (.uimm16 rd imm))
theorem EncodeLength.orReg (rd : Reg) (rs : Reg) : EncodeLength.Statement (.orReg rd rs) :=
  EncodeLength.of_encode _ rfl (encodeBop_length .or (.reg rd rs))
theorem EncodeLength.orAddr16 (rd : Reg) (addr : BitVec 16) : EncodeLength.Statement (.orAddr16 rd addr) :=
  EncodeLength.of_encode _ rfl (encodeBop_length .or (.load .q rd (.addr16 addr)))
theorem EncodeLength.orAddr32 (rd : Reg) (addr : BitVec 32) : EncodeLength.Statement (.orAddr32 rd addr) :=
  EncodeLength.of_encode _ rfl (encodeBop_length .or (.load .q rd (.addr32 addr)))
theorem EncodeLength.orInd (rd : Reg) (rs : Reg) (off : BitVec 13) : EncodeLength.Statement (.orInd rd rs off) :=
  EncodeLength.of_encode _ rfl (encodeBop_length .or (.load .q rd (.ind rs off)))
theorem EncodeLength.orSWAddr16 (rd : Reg) (addr : BitVec 16) : EncodeLength.Statement (.orSWAddr16 rd addr) :=
  EncodeLength.of_encode _ rfl (encodeBop_length .or (.load .sw rd (.addr16 addr)))
theorem EncodeLength.orSWAddr32 (rd : Reg) (addr : BitVec 32) : EncodeLength.Statement (.orSWAddr32 rd addr) :=
  EncodeLength.of_encode _ rfl (encodeBop_length .or (.load .sw rd (.addr32 addr)))
theorem EncodeLength.orSWInd (rd : Reg) (rs : Reg) (off : BitVec 13) : EncodeLength.Statement (.orSWInd rd rs off) :=
  EncodeLength.of_encode _ rfl (encodeBop_length .or (.load .sw rd (.ind rs off)))
theorem EncodeLength.orUWAddr16 (rd : Reg) (addr : BitVec 16) : EncodeLength.Statement (.orUWAddr16 rd addr) :=
  EncodeLength.of_encode _ rfl (encodeBop_length .or (.load .uw rd (.addr16 addr)))
theorem EncodeLength.orUWAddr32 (rd : Reg) (addr : BitVec 32) : EncodeLength.Statement (.orUWAddr32 rd addr) :=
  EncodeLength.of_encode _ rfl (encodeBop_length .or (.load .uw rd (.addr32 addr)))
theorem EncodeLength.orUWInd (rd : Reg) (rs : Reg) (off : BitVec 13) : EncodeLength.Statement (.orUWInd rd rs off) :=
  EncodeLength.of_encode _ rfl (encodeBop_length .or (.load .uw rd (.ind rs off)))
theorem EncodeLength.orSBAddr16 (rd : Reg) (addr : BitVec 16) : EncodeLength.Statement (.orSBAddr16 rd addr) :=
  EncodeLength.of_encode _ rfl (encodeBop_length .or (.load .sb rd (.addr16 addr)))
theorem EncodeLength.orSBAddr32 (rd : Reg) (addr : BitVec 32) : EncodeLength.Statement (.orSBAddr32 rd addr) :=
  EncodeLength.of_encode _ rfl (encodeBop_length .or (.load .sb rd (.addr32 addr)))
theorem EncodeLength.orSBInd (rd : Reg) (rs : Reg) (off : BitVec 13) : EncodeLength.Statement (.orSBInd rd rs off) :=
  EncodeLength.of_encode _ rfl (encodeBop_length .or (.load .sb rd (.ind rs off)))
theorem EncodeLength.orUBAddr16 (rd : Reg) (addr : BitVec 16) : EncodeLength.Statement (.orUBAddr16 rd addr) :=
  EncodeLength.of_encode _ rfl (encodeBop_length .or (.load .ub rd (.addr16 addr)))
theorem EncodeLength.orUBAddr32 (rd : Reg) (addr : BitVec 32) : EncodeLength.Statement (.orUBAddr32 rd addr) :=
  EncodeLength.of_encode _ rfl (encodeBop_length .or (.load .ub rd (.addr32 addr)))
theorem EncodeLength.orUBInd (rd : Reg) (rs : Reg) (off : BitVec 13) : EncodeLength.Statement (.orUBInd rd rs off) :=
  EncodeLength.of_encode _ rfl (encodeBop_length .or (.load .ub rd (.ind rs off)))
theorem EncodeLength.orToAddr16 (addr : BitVec 16) (rs : Reg) : EncodeLength.Statement (.orToAddr16 addr rs) :=
  EncodeLength.of_encode _ rfl (encodeBop_length .or (.store .quad (.addr16 addr) rs))
theorem EncodeLength.orToAddr32 (addr : BitVec 32) (rs : Reg) : EncodeLength.Statement (.orToAddr32 addr rs) :=
  EncodeLength.of_encode _ rfl (encodeBop_length .or (.store .quad (.addr32 addr) rs))
theorem EncodeLength.orToInd (rd : Reg) (off : BitVec 13) (rs : Reg) : EncodeLength.Statement (.orToInd rd off rs) :=
  EncodeLength.of_encode _ rfl (encodeBop_length .or (.store .quad (.ind rd off) rs))
theorem EncodeLength.orWToAddr16 (addr : BitVec 16) (rs : Reg) : EncodeLength.Statement (.orWToAddr16 addr rs) :=
  EncodeLength.of_encode _ rfl (encodeBop_length .or (.store .word (.addr16 addr) rs))
theorem EncodeLength.orWToAddr32 (addr : BitVec 32) (rs : Reg) : EncodeLength.Statement (.orWToAddr32 addr rs) :=
  EncodeLength.of_encode _ rfl (encodeBop_length .or (.store .word (.addr32 addr) rs))
theorem EncodeLength.orWToInd (rd : Reg) (off : BitVec 13) (rs : Reg) : EncodeLength.Statement (.orWToInd rd off rs) :=
  EncodeLength.of_encode _ rfl (encodeBop_length .or (.store .word (.ind rd off) rs))
theorem EncodeLength.orBToAddr16 (addr : BitVec 16) (rs : Reg) : EncodeLength.Statement (.orBToAddr16 addr rs) :=
  EncodeLength.of_encode _ rfl (encodeBop_length .or (.store .byte (.addr16 addr) rs))
theorem EncodeLength.orBToAddr32 (addr : BitVec 32) (rs : Reg) : EncodeLength.Statement (.orBToAddr32 addr rs) :=
  EncodeLength.of_encode _ rfl (encodeBop_length .or (.store .byte (.addr32 addr) rs))
theorem EncodeLength.orBToInd (rd : Reg) (off : BitVec 13) (rs : Reg) : EncodeLength.Statement (.orBToInd rd off rs) :=
  EncodeLength.of_encode _ rfl (encodeBop_length .or (.store .byte (.ind rd off) rs))
theorem EncodeLength.orMemImm32 (rd : Reg) (imm : BitVec 32) : EncodeLength.Statement (.orMemImm32 rd imm) :=
  EncodeLength.of_encode _ rfl (encodeBop_length .or (.memImm32 rd imm))
theorem EncodeLength.orMemSimm16 (rd : Reg) (imm : BitVec 16) : EncodeLength.Statement (.orMemSimm16 rd imm) :=
  EncodeLength.of_encode _ rfl (encodeBop_length .or (.memSimm16 rd imm))
theorem EncodeLength.orWMemImm16 (rd : Reg) (imm : BitVec 16) : EncodeLength.Statement (.orWMemImm16 rd imm) :=
  EncodeLength.of_encode _ rfl (encodeBop_length .or (.memWImm16 rd imm))
theorem EncodeLength.orBMemImm8 (rd : Reg) (imm : BitVec 8) : EncodeLength.Statement (.orBMemImm8 rd imm) :=
  EncodeLength.of_encode _ rfl (encodeBop_length .or (.memBImm8 rd imm))
theorem EncodeLength.xorImm32 (rd : Reg) (imm : BitVec 32) : EncodeLength.Statement (.xorImm32 rd imm) :=
  EncodeLength.of_encode _ rfl (encodeBop_length .xor (.imm32 rd imm))
theorem EncodeLength.xorUimm16 (rd : Reg) (imm : BitVec 16) : EncodeLength.Statement (.xorUimm16 rd imm) :=
  EncodeLength.of_encode _ rfl (encodeBop_length .xor (.uimm16 rd imm))
theorem EncodeLength.xorReg (rd : Reg) (rs : Reg) : EncodeLength.Statement (.xorReg rd rs) :=
  EncodeLength.of_encode _ rfl (encodeBop_length .xor (.reg rd rs))
theorem EncodeLength.xorAddr16 (rd : Reg) (addr : BitVec 16) : EncodeLength.Statement (.xorAddr16 rd addr) :=
  EncodeLength.of_encode _ rfl (encodeBop_length .xor (.load .q rd (.addr16 addr)))
theorem EncodeLength.xorAddr32 (rd : Reg) (addr : BitVec 32) : EncodeLength.Statement (.xorAddr32 rd addr) :=
  EncodeLength.of_encode _ rfl (encodeBop_length .xor (.load .q rd (.addr32 addr)))
theorem EncodeLength.xorInd (rd : Reg) (rs : Reg) (off : BitVec 13) : EncodeLength.Statement (.xorInd rd rs off) :=
  EncodeLength.of_encode _ rfl (encodeBop_length .xor (.load .q rd (.ind rs off)))
theorem EncodeLength.xorSWAddr16 (rd : Reg) (addr : BitVec 16) : EncodeLength.Statement (.xorSWAddr16 rd addr) :=
  EncodeLength.of_encode _ rfl (encodeBop_length .xor (.load .sw rd (.addr16 addr)))
theorem EncodeLength.xorSWAddr32 (rd : Reg) (addr : BitVec 32) : EncodeLength.Statement (.xorSWAddr32 rd addr) :=
  EncodeLength.of_encode _ rfl (encodeBop_length .xor (.load .sw rd (.addr32 addr)))
theorem EncodeLength.xorSWInd (rd : Reg) (rs : Reg) (off : BitVec 13) : EncodeLength.Statement (.xorSWInd rd rs off) :=
  EncodeLength.of_encode _ rfl (encodeBop_length .xor (.load .sw rd (.ind rs off)))
theorem EncodeLength.xorUWAddr16 (rd : Reg) (addr : BitVec 16) : EncodeLength.Statement (.xorUWAddr16 rd addr) :=
  EncodeLength.of_encode _ rfl (encodeBop_length .xor (.load .uw rd (.addr16 addr)))
theorem EncodeLength.xorUWAddr32 (rd : Reg) (addr : BitVec 32) : EncodeLength.Statement (.xorUWAddr32 rd addr) :=
  EncodeLength.of_encode _ rfl (encodeBop_length .xor (.load .uw rd (.addr32 addr)))
theorem EncodeLength.xorUWInd (rd : Reg) (rs : Reg) (off : BitVec 13) : EncodeLength.Statement (.xorUWInd rd rs off) :=
  EncodeLength.of_encode _ rfl (encodeBop_length .xor (.load .uw rd (.ind rs off)))
theorem EncodeLength.xorSBAddr16 (rd : Reg) (addr : BitVec 16) : EncodeLength.Statement (.xorSBAddr16 rd addr) :=
  EncodeLength.of_encode _ rfl (encodeBop_length .xor (.load .sb rd (.addr16 addr)))
theorem EncodeLength.xorSBAddr32 (rd : Reg) (addr : BitVec 32) : EncodeLength.Statement (.xorSBAddr32 rd addr) :=
  EncodeLength.of_encode _ rfl (encodeBop_length .xor (.load .sb rd (.addr32 addr)))
theorem EncodeLength.xorSBInd (rd : Reg) (rs : Reg) (off : BitVec 13) : EncodeLength.Statement (.xorSBInd rd rs off) :=
  EncodeLength.of_encode _ rfl (encodeBop_length .xor (.load .sb rd (.ind rs off)))
theorem EncodeLength.xorUBAddr16 (rd : Reg) (addr : BitVec 16) : EncodeLength.Statement (.xorUBAddr16 rd addr) :=
  EncodeLength.of_encode _ rfl (encodeBop_length .xor (.load .ub rd (.addr16 addr)))
theorem EncodeLength.xorUBAddr32 (rd : Reg) (addr : BitVec 32) : EncodeLength.Statement (.xorUBAddr32 rd addr) :=
  EncodeLength.of_encode _ rfl (encodeBop_length .xor (.load .ub rd (.addr32 addr)))
theorem EncodeLength.xorUBInd (rd : Reg) (rs : Reg) (off : BitVec 13) : EncodeLength.Statement (.xorUBInd rd rs off) :=
  EncodeLength.of_encode _ rfl (encodeBop_length .xor (.load .ub rd (.ind rs off)))
theorem EncodeLength.xorToAddr16 (addr : BitVec 16) (rs : Reg) : EncodeLength.Statement (.xorToAddr16 addr rs) :=
  EncodeLength.of_encode _ rfl (encodeBop_length .xor (.store .quad (.addr16 addr) rs))
theorem EncodeLength.xorToAddr32 (addr : BitVec 32) (rs : Reg) : EncodeLength.Statement (.xorToAddr32 addr rs) :=
  EncodeLength.of_encode _ rfl (encodeBop_length .xor (.store .quad (.addr32 addr) rs))
theorem EncodeLength.xorToInd (rd : Reg) (off : BitVec 13) (rs : Reg) : EncodeLength.Statement (.xorToInd rd off rs) :=
  EncodeLength.of_encode _ rfl (encodeBop_length .xor (.store .quad (.ind rd off) rs))
theorem EncodeLength.xorWToAddr16 (addr : BitVec 16) (rs : Reg) : EncodeLength.Statement (.xorWToAddr16 addr rs) :=
  EncodeLength.of_encode _ rfl (encodeBop_length .xor (.store .word (.addr16 addr) rs))
theorem EncodeLength.xorWToAddr32 (addr : BitVec 32) (rs : Reg) : EncodeLength.Statement (.xorWToAddr32 addr rs) :=
  EncodeLength.of_encode _ rfl (encodeBop_length .xor (.store .word (.addr32 addr) rs))
theorem EncodeLength.xorWToInd (rd : Reg) (off : BitVec 13) (rs : Reg) : EncodeLength.Statement (.xorWToInd rd off rs) :=
  EncodeLength.of_encode _ rfl (encodeBop_length .xor (.store .word (.ind rd off) rs))
theorem EncodeLength.xorBToAddr16 (addr : BitVec 16) (rs : Reg) : EncodeLength.Statement (.xorBToAddr16 addr rs) :=
  EncodeLength.of_encode _ rfl (encodeBop_length .xor (.store .byte (.addr16 addr) rs))
theorem EncodeLength.xorBToAddr32 (addr : BitVec 32) (rs : Reg) : EncodeLength.Statement (.xorBToAddr32 addr rs) :=
  EncodeLength.of_encode _ rfl (encodeBop_length .xor (.store .byte (.addr32 addr) rs))
theorem EncodeLength.xorBToInd (rd : Reg) (off : BitVec 13) (rs : Reg) : EncodeLength.Statement (.xorBToInd rd off rs) :=
  EncodeLength.of_encode _ rfl (encodeBop_length .xor (.store .byte (.ind rd off) rs))
theorem EncodeLength.xorMemImm32 (rd : Reg) (imm : BitVec 32) : EncodeLength.Statement (.xorMemImm32 rd imm) :=
  EncodeLength.of_encode _ rfl (encodeBop_length .xor (.memImm32 rd imm))
theorem EncodeLength.xorMemSimm16 (rd : Reg) (imm : BitVec 16) : EncodeLength.Statement (.xorMemSimm16 rd imm) :=
  EncodeLength.of_encode _ rfl (encodeBop_length .xor (.memSimm16 rd imm))
theorem EncodeLength.xorWMemImm16 (rd : Reg) (imm : BitVec 16) : EncodeLength.Statement (.xorWMemImm16 rd imm) :=
  EncodeLength.of_encode _ rfl (encodeBop_length .xor (.memWImm16 rd imm))
theorem EncodeLength.xorBMemImm8 (rd : Reg) (imm : BitVec 8) : EncodeLength.Statement (.xorBMemImm8 rd imm) :=
  EncodeLength.of_encode _ rfl (encodeBop_length .xor (.memBImm8 rd imm))
theorem EncodeLength.cpImm32 (rd : Reg) (imm : BitVec 32) : EncodeLength.Statement (.cpImm32 rd imm) :=
  EncodeLength.of_encode _ rfl (encodeBop_length .cp (.imm32 rd imm))
theorem EncodeLength.cpUimm16 (rd : Reg) (imm : BitVec 16) : EncodeLength.Statement (.cpUimm16 rd imm) :=
  EncodeLength.of_encode _ rfl (encodeBop_length .cp (.uimm16 rd imm))
theorem EncodeLength.cpReg (rd : Reg) (rs : Reg) : EncodeLength.Statement (.cpReg rd rs) :=
  EncodeLength.of_encode _ rfl (encodeBop_length .cp (.reg rd rs))
theorem EncodeLength.cpAddr16 (rd : Reg) (addr : BitVec 16) : EncodeLength.Statement (.cpAddr16 rd addr) :=
  EncodeLength.of_encode _ rfl (encodeBop_length .cp (.load .q rd (.addr16 addr)))
theorem EncodeLength.cpAddr32 (rd : Reg) (addr : BitVec 32) : EncodeLength.Statement (.cpAddr32 rd addr) :=
  EncodeLength.of_encode _ rfl (encodeBop_length .cp (.load .q rd (.addr32 addr)))
theorem EncodeLength.cpInd (rd : Reg) (rs : Reg) (off : BitVec 13) : EncodeLength.Statement (.cpInd rd rs off) :=
  EncodeLength.of_encode _ rfl (encodeBop_length .cp (.load .q rd (.ind rs off)))
theorem EncodeLength.cpSWAddr16 (rd : Reg) (addr : BitVec 16) : EncodeLength.Statement (.cpSWAddr16 rd addr) :=
  EncodeLength.of_encode _ rfl (encodeBop_length .cp (.load .sw rd (.addr16 addr)))
theorem EncodeLength.cpSWAddr32 (rd : Reg) (addr : BitVec 32) : EncodeLength.Statement (.cpSWAddr32 rd addr) :=
  EncodeLength.of_encode _ rfl (encodeBop_length .cp (.load .sw rd (.addr32 addr)))
theorem EncodeLength.cpSWInd (rd : Reg) (rs : Reg) (off : BitVec 13) : EncodeLength.Statement (.cpSWInd rd rs off) :=
  EncodeLength.of_encode _ rfl (encodeBop_length .cp (.load .sw rd (.ind rs off)))
theorem EncodeLength.cpUWAddr16 (rd : Reg) (addr : BitVec 16) : EncodeLength.Statement (.cpUWAddr16 rd addr) :=
  EncodeLength.of_encode _ rfl (encodeBop_length .cp (.load .uw rd (.addr16 addr)))
theorem EncodeLength.cpUWAddr32 (rd : Reg) (addr : BitVec 32) : EncodeLength.Statement (.cpUWAddr32 rd addr) :=
  EncodeLength.of_encode _ rfl (encodeBop_length .cp (.load .uw rd (.addr32 addr)))
theorem EncodeLength.cpUWInd (rd : Reg) (rs : Reg) (off : BitVec 13) : EncodeLength.Statement (.cpUWInd rd rs off) :=
  EncodeLength.of_encode _ rfl (encodeBop_length .cp (.load .uw rd (.ind rs off)))
theorem EncodeLength.cpSBAddr16 (rd : Reg) (addr : BitVec 16) : EncodeLength.Statement (.cpSBAddr16 rd addr) :=
  EncodeLength.of_encode _ rfl (encodeBop_length .cp (.load .sb rd (.addr16 addr)))
theorem EncodeLength.cpSBAddr32 (rd : Reg) (addr : BitVec 32) : EncodeLength.Statement (.cpSBAddr32 rd addr) :=
  EncodeLength.of_encode _ rfl (encodeBop_length .cp (.load .sb rd (.addr32 addr)))
theorem EncodeLength.cpSBInd (rd : Reg) (rs : Reg) (off : BitVec 13) : EncodeLength.Statement (.cpSBInd rd rs off) :=
  EncodeLength.of_encode _ rfl (encodeBop_length .cp (.load .sb rd (.ind rs off)))
theorem EncodeLength.cpUBAddr16 (rd : Reg) (addr : BitVec 16) : EncodeLength.Statement (.cpUBAddr16 rd addr) :=
  EncodeLength.of_encode _ rfl (encodeBop_length .cp (.load .ub rd (.addr16 addr)))
theorem EncodeLength.cpUBAddr32 (rd : Reg) (addr : BitVec 32) : EncodeLength.Statement (.cpUBAddr32 rd addr) :=
  EncodeLength.of_encode _ rfl (encodeBop_length .cp (.load .ub rd (.addr32 addr)))
theorem EncodeLength.cpUBInd (rd : Reg) (rs : Reg) (off : BitVec 13) : EncodeLength.Statement (.cpUBInd rd rs off) :=
  EncodeLength.of_encode _ rfl (encodeBop_length .cp (.load .ub rd (.ind rs off)))
theorem EncodeLength.cpToAddr16 (addr : BitVec 16) (rs : Reg) : EncodeLength.Statement (.cpToAddr16 addr rs) :=
  EncodeLength.of_encode _ rfl (encodeBop_length .cp (.store .quad (.addr16 addr) rs))
theorem EncodeLength.cpToAddr32 (addr : BitVec 32) (rs : Reg) : EncodeLength.Statement (.cpToAddr32 addr rs) :=
  EncodeLength.of_encode _ rfl (encodeBop_length .cp (.store .quad (.addr32 addr) rs))
theorem EncodeLength.cpToInd (rd : Reg) (off : BitVec 13) (rs : Reg) : EncodeLength.Statement (.cpToInd rd off rs) :=
  EncodeLength.of_encode _ rfl (encodeBop_length .cp (.store .quad (.ind rd off) rs))
theorem EncodeLength.cpWToAddr16 (addr : BitVec 16) (rs : Reg) : EncodeLength.Statement (.cpWToAddr16 addr rs) :=
  EncodeLength.of_encode _ rfl (encodeBop_length .cp (.store .word (.addr16 addr) rs))
theorem EncodeLength.cpWToAddr32 (addr : BitVec 32) (rs : Reg) : EncodeLength.Statement (.cpWToAddr32 addr rs) :=
  EncodeLength.of_encode _ rfl (encodeBop_length .cp (.store .word (.addr32 addr) rs))
theorem EncodeLength.cpWToInd (rd : Reg) (off : BitVec 13) (rs : Reg) : EncodeLength.Statement (.cpWToInd rd off rs) :=
  EncodeLength.of_encode _ rfl (encodeBop_length .cp (.store .word (.ind rd off) rs))
theorem EncodeLength.cpBToAddr16 (addr : BitVec 16) (rs : Reg) : EncodeLength.Statement (.cpBToAddr16 addr rs) :=
  EncodeLength.of_encode _ rfl (encodeBop_length .cp (.store .byte (.addr16 addr) rs))
theorem EncodeLength.cpBToAddr32 (addr : BitVec 32) (rs : Reg) : EncodeLength.Statement (.cpBToAddr32 addr rs) :=
  EncodeLength.of_encode _ rfl (encodeBop_length .cp (.store .byte (.addr32 addr) rs))
theorem EncodeLength.cpBToInd (rd : Reg) (off : BitVec 13) (rs : Reg) : EncodeLength.Statement (.cpBToInd rd off rs) :=
  EncodeLength.of_encode _ rfl (encodeBop_length .cp (.store .byte (.ind rd off) rs))
theorem EncodeLength.cpMemImm32 (rd : Reg) (imm : BitVec 32) : EncodeLength.Statement (.cpMemImm32 rd imm) :=
  EncodeLength.of_encode _ rfl (encodeBop_length .cp (.memImm32 rd imm))
theorem EncodeLength.cpMemSimm16 (rd : Reg) (imm : BitVec 16) : EncodeLength.Statement (.cpMemSimm16 rd imm) :=
  EncodeLength.of_encode _ rfl (encodeBop_length .cp (.memSimm16 rd imm))
theorem EncodeLength.cpWMemImm16 (rd : Reg) (imm : BitVec 16) : EncodeLength.Statement (.cpWMemImm16 rd imm) :=
  EncodeLength.of_encode _ rfl (encodeBop_length .cp (.memWImm16 rd imm))
theorem EncodeLength.cpBMemImm8 (rd : Reg) (imm : BitVec 8) : EncodeLength.Statement (.cpBMemImm8 rd imm) :=
  EncodeLength.of_encode _ rfl (encodeBop_length .cp (.memBImm8 rd imm))
theorem EncodeLength.tmImm32 (rd : Reg) (imm : BitVec 32) : EncodeLength.Statement (.tmImm32 rd imm) :=
  EncodeLength.of_encode _ rfl (encodeBop_length .tm (.imm32 rd imm))
theorem EncodeLength.tmUimm16 (rd : Reg) (imm : BitVec 16) : EncodeLength.Statement (.tmUimm16 rd imm) :=
  EncodeLength.of_encode _ rfl (encodeBop_length .tm (.uimm16 rd imm))
theorem EncodeLength.tmReg (rd : Reg) (rs : Reg) : EncodeLength.Statement (.tmReg rd rs) :=
  EncodeLength.of_encode _ rfl (encodeBop_length .tm (.reg rd rs))
theorem EncodeLength.tmAddr16 (rd : Reg) (addr : BitVec 16) : EncodeLength.Statement (.tmAddr16 rd addr) :=
  EncodeLength.of_encode _ rfl (encodeBop_length .tm (.load .q rd (.addr16 addr)))
theorem EncodeLength.tmAddr32 (rd : Reg) (addr : BitVec 32) : EncodeLength.Statement (.tmAddr32 rd addr) :=
  EncodeLength.of_encode _ rfl (encodeBop_length .tm (.load .q rd (.addr32 addr)))
theorem EncodeLength.tmInd (rd : Reg) (rs : Reg) (off : BitVec 13) : EncodeLength.Statement (.tmInd rd rs off) :=
  EncodeLength.of_encode _ rfl (encodeBop_length .tm (.load .q rd (.ind rs off)))
theorem EncodeLength.tmSWAddr16 (rd : Reg) (addr : BitVec 16) : EncodeLength.Statement (.tmSWAddr16 rd addr) :=
  EncodeLength.of_encode _ rfl (encodeBop_length .tm (.load .sw rd (.addr16 addr)))
theorem EncodeLength.tmSWAddr32 (rd : Reg) (addr : BitVec 32) : EncodeLength.Statement (.tmSWAddr32 rd addr) :=
  EncodeLength.of_encode _ rfl (encodeBop_length .tm (.load .sw rd (.addr32 addr)))
theorem EncodeLength.tmSWInd (rd : Reg) (rs : Reg) (off : BitVec 13) : EncodeLength.Statement (.tmSWInd rd rs off) :=
  EncodeLength.of_encode _ rfl (encodeBop_length .tm (.load .sw rd (.ind rs off)))
theorem EncodeLength.tmUWAddr16 (rd : Reg) (addr : BitVec 16) : EncodeLength.Statement (.tmUWAddr16 rd addr) :=
  EncodeLength.of_encode _ rfl (encodeBop_length .tm (.load .uw rd (.addr16 addr)))
theorem EncodeLength.tmUWAddr32 (rd : Reg) (addr : BitVec 32) : EncodeLength.Statement (.tmUWAddr32 rd addr) :=
  EncodeLength.of_encode _ rfl (encodeBop_length .tm (.load .uw rd (.addr32 addr)))
theorem EncodeLength.tmUWInd (rd : Reg) (rs : Reg) (off : BitVec 13) : EncodeLength.Statement (.tmUWInd rd rs off) :=
  EncodeLength.of_encode _ rfl (encodeBop_length .tm (.load .uw rd (.ind rs off)))
theorem EncodeLength.tmSBAddr16 (rd : Reg) (addr : BitVec 16) : EncodeLength.Statement (.tmSBAddr16 rd addr) :=
  EncodeLength.of_encode _ rfl (encodeBop_length .tm (.load .sb rd (.addr16 addr)))
theorem EncodeLength.tmSBAddr32 (rd : Reg) (addr : BitVec 32) : EncodeLength.Statement (.tmSBAddr32 rd addr) :=
  EncodeLength.of_encode _ rfl (encodeBop_length .tm (.load .sb rd (.addr32 addr)))
theorem EncodeLength.tmSBInd (rd : Reg) (rs : Reg) (off : BitVec 13) : EncodeLength.Statement (.tmSBInd rd rs off) :=
  EncodeLength.of_encode _ rfl (encodeBop_length .tm (.load .sb rd (.ind rs off)))
theorem EncodeLength.tmUBAddr16 (rd : Reg) (addr : BitVec 16) : EncodeLength.Statement (.tmUBAddr16 rd addr) :=
  EncodeLength.of_encode _ rfl (encodeBop_length .tm (.load .ub rd (.addr16 addr)))
theorem EncodeLength.tmUBAddr32 (rd : Reg) (addr : BitVec 32) : EncodeLength.Statement (.tmUBAddr32 rd addr) :=
  EncodeLength.of_encode _ rfl (encodeBop_length .tm (.load .ub rd (.addr32 addr)))
theorem EncodeLength.tmUBInd (rd : Reg) (rs : Reg) (off : BitVec 13) : EncodeLength.Statement (.tmUBInd rd rs off) :=
  EncodeLength.of_encode _ rfl (encodeBop_length .tm (.load .ub rd (.ind rs off)))
theorem EncodeLength.tmToAddr16 (addr : BitVec 16) (rs : Reg) : EncodeLength.Statement (.tmToAddr16 addr rs) :=
  EncodeLength.of_encode _ rfl (encodeBop_length .tm (.store .quad (.addr16 addr) rs))
theorem EncodeLength.tmToAddr32 (addr : BitVec 32) (rs : Reg) : EncodeLength.Statement (.tmToAddr32 addr rs) :=
  EncodeLength.of_encode _ rfl (encodeBop_length .tm (.store .quad (.addr32 addr) rs))
theorem EncodeLength.tmToInd (rd : Reg) (off : BitVec 13) (rs : Reg) : EncodeLength.Statement (.tmToInd rd off rs) :=
  EncodeLength.of_encode _ rfl (encodeBop_length .tm (.store .quad (.ind rd off) rs))
theorem EncodeLength.tmWToAddr16 (addr : BitVec 16) (rs : Reg) : EncodeLength.Statement (.tmWToAddr16 addr rs) :=
  EncodeLength.of_encode _ rfl (encodeBop_length .tm (.store .word (.addr16 addr) rs))
theorem EncodeLength.tmWToAddr32 (addr : BitVec 32) (rs : Reg) : EncodeLength.Statement (.tmWToAddr32 addr rs) :=
  EncodeLength.of_encode _ rfl (encodeBop_length .tm (.store .word (.addr32 addr) rs))
theorem EncodeLength.tmWToInd (rd : Reg) (off : BitVec 13) (rs : Reg) : EncodeLength.Statement (.tmWToInd rd off rs) :=
  EncodeLength.of_encode _ rfl (encodeBop_length .tm (.store .word (.ind rd off) rs))
theorem EncodeLength.tmBToAddr16 (addr : BitVec 16) (rs : Reg) : EncodeLength.Statement (.tmBToAddr16 addr rs) :=
  EncodeLength.of_encode _ rfl (encodeBop_length .tm (.store .byte (.addr16 addr) rs))
theorem EncodeLength.tmBToAddr32 (addr : BitVec 32) (rs : Reg) : EncodeLength.Statement (.tmBToAddr32 addr rs) :=
  EncodeLength.of_encode _ rfl (encodeBop_length .tm (.store .byte (.addr32 addr) rs))
theorem EncodeLength.tmBToInd (rd : Reg) (off : BitVec 13) (rs : Reg) : EncodeLength.Statement (.tmBToInd rd off rs) :=
  EncodeLength.of_encode _ rfl (encodeBop_length .tm (.store .byte (.ind rd off) rs))
theorem EncodeLength.tmMemImm32 (rd : Reg) (imm : BitVec 32) : EncodeLength.Statement (.tmMemImm32 rd imm) :=
  EncodeLength.of_encode _ rfl (encodeBop_length .tm (.memImm32 rd imm))
theorem EncodeLength.tmMemSimm16 (rd : Reg) (imm : BitVec 16) : EncodeLength.Statement (.tmMemSimm16 rd imm) :=
  EncodeLength.of_encode _ rfl (encodeBop_length .tm (.memSimm16 rd imm))
theorem EncodeLength.tmWMemImm16 (rd : Reg) (imm : BitVec 16) : EncodeLength.Statement (.tmWMemImm16 rd imm) :=
  EncodeLength.of_encode _ rfl (encodeBop_length .tm (.memWImm16 rd imm))
theorem EncodeLength.tmBMemImm8 (rd : Reg) (imm : BitVec 8) : EncodeLength.Statement (.tmBMemImm8 rd imm) :=
  EncodeLength.of_encode _ rfl (encodeBop_length .tm (.memBImm8 rd imm))
theorem EncodeLength.tcmImm32 (rd : Reg) (imm : BitVec 32) : EncodeLength.Statement (.tcmImm32 rd imm) :=
  EncodeLength.of_encode _ rfl (encodeBop_length .tcm (.imm32 rd imm))
theorem EncodeLength.tcmUimm16 (rd : Reg) (imm : BitVec 16) : EncodeLength.Statement (.tcmUimm16 rd imm) :=
  EncodeLength.of_encode _ rfl (encodeBop_length .tcm (.uimm16 rd imm))
theorem EncodeLength.tcmReg (rd : Reg) (rs : Reg) : EncodeLength.Statement (.tcmReg rd rs) :=
  EncodeLength.of_encode _ rfl (encodeBop_length .tcm (.reg rd rs))
theorem EncodeLength.tcmAddr16 (rd : Reg) (addr : BitVec 16) : EncodeLength.Statement (.tcmAddr16 rd addr) :=
  EncodeLength.of_encode _ rfl (encodeBop_length .tcm (.load .q rd (.addr16 addr)))
theorem EncodeLength.tcmAddr32 (rd : Reg) (addr : BitVec 32) : EncodeLength.Statement (.tcmAddr32 rd addr) :=
  EncodeLength.of_encode _ rfl (encodeBop_length .tcm (.load .q rd (.addr32 addr)))
theorem EncodeLength.tcmInd (rd : Reg) (rs : Reg) (off : BitVec 13) : EncodeLength.Statement (.tcmInd rd rs off) :=
  EncodeLength.of_encode _ rfl (encodeBop_length .tcm (.load .q rd (.ind rs off)))
theorem EncodeLength.tcmSWAddr16 (rd : Reg) (addr : BitVec 16) : EncodeLength.Statement (.tcmSWAddr16 rd addr) :=
  EncodeLength.of_encode _ rfl (encodeBop_length .tcm (.load .sw rd (.addr16 addr)))
theorem EncodeLength.tcmSWAddr32 (rd : Reg) (addr : BitVec 32) : EncodeLength.Statement (.tcmSWAddr32 rd addr) :=
  EncodeLength.of_encode _ rfl (encodeBop_length .tcm (.load .sw rd (.addr32 addr)))
theorem EncodeLength.tcmSWInd (rd : Reg) (rs : Reg) (off : BitVec 13) : EncodeLength.Statement (.tcmSWInd rd rs off) :=
  EncodeLength.of_encode _ rfl (encodeBop_length .tcm (.load .sw rd (.ind rs off)))
theorem EncodeLength.tcmUWAddr16 (rd : Reg) (addr : BitVec 16) : EncodeLength.Statement (.tcmUWAddr16 rd addr) :=
  EncodeLength.of_encode _ rfl (encodeBop_length .tcm (.load .uw rd (.addr16 addr)))
theorem EncodeLength.tcmUWAddr32 (rd : Reg) (addr : BitVec 32) : EncodeLength.Statement (.tcmUWAddr32 rd addr) :=
  EncodeLength.of_encode _ rfl (encodeBop_length .tcm (.load .uw rd (.addr32 addr)))
theorem EncodeLength.tcmUWInd (rd : Reg) (rs : Reg) (off : BitVec 13) : EncodeLength.Statement (.tcmUWInd rd rs off) :=
  EncodeLength.of_encode _ rfl (encodeBop_length .tcm (.load .uw rd (.ind rs off)))
theorem EncodeLength.tcmSBAddr16 (rd : Reg) (addr : BitVec 16) : EncodeLength.Statement (.tcmSBAddr16 rd addr) :=
  EncodeLength.of_encode _ rfl (encodeBop_length .tcm (.load .sb rd (.addr16 addr)))
theorem EncodeLength.tcmSBAddr32 (rd : Reg) (addr : BitVec 32) : EncodeLength.Statement (.tcmSBAddr32 rd addr) :=
  EncodeLength.of_encode _ rfl (encodeBop_length .tcm (.load .sb rd (.addr32 addr)))
theorem EncodeLength.tcmSBInd (rd : Reg) (rs : Reg) (off : BitVec 13) : EncodeLength.Statement (.tcmSBInd rd rs off) :=
  EncodeLength.of_encode _ rfl (encodeBop_length .tcm (.load .sb rd (.ind rs off)))
theorem EncodeLength.tcmUBAddr16 (rd : Reg) (addr : BitVec 16) : EncodeLength.Statement (.tcmUBAddr16 rd addr) :=
  EncodeLength.of_encode _ rfl (encodeBop_length .tcm (.load .ub rd (.addr16 addr)))
theorem EncodeLength.tcmUBAddr32 (rd : Reg) (addr : BitVec 32) : EncodeLength.Statement (.tcmUBAddr32 rd addr) :=
  EncodeLength.of_encode _ rfl (encodeBop_length .tcm (.load .ub rd (.addr32 addr)))
theorem EncodeLength.tcmUBInd (rd : Reg) (rs : Reg) (off : BitVec 13) : EncodeLength.Statement (.tcmUBInd rd rs off) :=
  EncodeLength.of_encode _ rfl (encodeBop_length .tcm (.load .ub rd (.ind rs off)))
theorem EncodeLength.tcmToAddr16 (addr : BitVec 16) (rs : Reg) : EncodeLength.Statement (.tcmToAddr16 addr rs) :=
  EncodeLength.of_encode _ rfl (encodeBop_length .tcm (.store .quad (.addr16 addr) rs))
theorem EncodeLength.tcmToAddr32 (addr : BitVec 32) (rs : Reg) : EncodeLength.Statement (.tcmToAddr32 addr rs) :=
  EncodeLength.of_encode _ rfl (encodeBop_length .tcm (.store .quad (.addr32 addr) rs))
theorem EncodeLength.tcmToInd (rd : Reg) (off : BitVec 13) (rs : Reg) : EncodeLength.Statement (.tcmToInd rd off rs) :=
  EncodeLength.of_encode _ rfl (encodeBop_length .tcm (.store .quad (.ind rd off) rs))
theorem EncodeLength.tcmWToAddr16 (addr : BitVec 16) (rs : Reg) : EncodeLength.Statement (.tcmWToAddr16 addr rs) :=
  EncodeLength.of_encode _ rfl (encodeBop_length .tcm (.store .word (.addr16 addr) rs))
theorem EncodeLength.tcmWToAddr32 (addr : BitVec 32) (rs : Reg) : EncodeLength.Statement (.tcmWToAddr32 addr rs) :=
  EncodeLength.of_encode _ rfl (encodeBop_length .tcm (.store .word (.addr32 addr) rs))
theorem EncodeLength.tcmWToInd (rd : Reg) (off : BitVec 13) (rs : Reg) : EncodeLength.Statement (.tcmWToInd rd off rs) :=
  EncodeLength.of_encode _ rfl (encodeBop_length .tcm (.store .word (.ind rd off) rs))
theorem EncodeLength.tcmBToAddr16 (addr : BitVec 16) (rs : Reg) : EncodeLength.Statement (.tcmBToAddr16 addr rs) :=
  EncodeLength.of_encode _ rfl (encodeBop_length .tcm (.store .byte (.addr16 addr) rs))
theorem EncodeLength.tcmBToAddr32 (addr : BitVec 32) (rs : Reg) : EncodeLength.Statement (.tcmBToAddr32 addr rs) :=
  EncodeLength.of_encode _ rfl (encodeBop_length .tcm (.store .byte (.addr32 addr) rs))
theorem EncodeLength.tcmBToInd (rd : Reg) (off : BitVec 13) (rs : Reg) : EncodeLength.Statement (.tcmBToInd rd off rs) :=
  EncodeLength.of_encode _ rfl (encodeBop_length .tcm (.store .byte (.ind rd off) rs))
theorem EncodeLength.tcmMemImm32 (rd : Reg) (imm : BitVec 32) : EncodeLength.Statement (.tcmMemImm32 rd imm) :=
  EncodeLength.of_encode _ rfl (encodeBop_length .tcm (.memImm32 rd imm))
theorem EncodeLength.tcmMemSimm16 (rd : Reg) (imm : BitVec 16) : EncodeLength.Statement (.tcmMemSimm16 rd imm) :=
  EncodeLength.of_encode _ rfl (encodeBop_length .tcm (.memSimm16 rd imm))
theorem EncodeLength.tcmWMemImm16 (rd : Reg) (imm : BitVec 16) : EncodeLength.Statement (.tcmWMemImm16 rd imm) :=
  EncodeLength.of_encode _ rfl (encodeBop_length .tcm (.memWImm16 rd imm))
theorem EncodeLength.tcmBMemImm8 (rd : Reg) (imm : BitVec 8) : EncodeLength.Statement (.tcmBMemImm8 rd imm) :=
  EncodeLength.of_encode _ rfl (encodeBop_length .tcm (.memBImm8 rd imm))
theorem EncodeLength.addReg3 (rd : Reg) (rs1 : Reg) (rs2 : Reg) : EncodeLength.Statement (.addReg3 rd rs1 rs2) :=
  EncodeLength.of_encode ([0x2#4 ++ rd ++ rs1 ++ rs2]) rfl (by simp [instrWords])
theorem EncodeLength.addSimm8 (rd : Reg) (imm : BitVec 8) : EncodeLength.Statement (.addSimm8 rd imm) :=
  EncodeLength.of_encode ([0x8#4 ++ rd ++ imm]) rfl (by simp [instrWords])
theorem EncodeLength.cpSimm8 (rd : Reg) (imm : BitVec 8) : EncodeLength.Statement (.cpSimm8 rd imm) :=
  EncodeLength.of_encode ([0x9#4 ++ rd ++ imm]) rfl (by simp [instrWords])
theorem EncodeLength.clrAddr16 (addr : BitVec 16) : EncodeLength.Statement (.clrAddr16 addr) :=
  EncodeLength.of_encode _ rfl (encodeUop_length .clr .quad (.addr16 addr))
theorem EncodeLength.clrAddr32 (addr : BitVec 32) : EncodeLength.Statement (.clrAddr32 addr) :=
  EncodeLength.of_encode _ rfl (encodeUop_length .clr .quad (.addr32 addr))
theorem EncodeLength.clrMem (rd : Reg) : EncodeLength.Statement (.clrMem rd) :=
  EncodeLength.of_encode _ rfl (encodeUop_length .clr .quad (.mem rd))
theorem EncodeLength.clrInd (rd : Reg) (off : BitVec 14) : EncodeLength.Statement (.clrInd rd off) :=
  EncodeLength.of_encode _ rfl (encodeUop_length .clr .quad (.ind rd off))
theorem EncodeLength.clrWAddr16 (addr : BitVec 16) : EncodeLength.Statement (.clrWAddr16 addr) :=
  EncodeLength.of_encode _ rfl (encodeUop_length .clr .word (.addr16 addr))
theorem EncodeLength.clrWAddr32 (addr : BitVec 32) : EncodeLength.Statement (.clrWAddr32 addr) :=
  EncodeLength.of_encode _ rfl (encodeUop_length .clr .word (.addr32 addr))
theorem EncodeLength.clrWMem (rd : Reg) : EncodeLength.Statement (.clrWMem rd) :=
  EncodeLength.of_encode _ rfl (encodeUop_length .clr .word (.mem rd))
theorem EncodeLength.clrWInd (rd : Reg) (off : BitVec 14) : EncodeLength.Statement (.clrWInd rd off) :=
  EncodeLength.of_encode _ rfl (encodeUop_length .clr .word (.ind rd off))
theorem EncodeLength.clrBAddr16 (addr : BitVec 16) : EncodeLength.Statement (.clrBAddr16 addr) :=
  EncodeLength.of_encode _ rfl (encodeUop_length .clr .byte (.addr16 addr))
theorem EncodeLength.clrBAddr32 (addr : BitVec 32) : EncodeLength.Statement (.clrBAddr32 addr) :=
  EncodeLength.of_encode _ rfl (encodeUop_length .clr .byte (.addr32 addr))
theorem EncodeLength.clrBMem (rd : Reg) : EncodeLength.Statement (.clrBMem rd) :=
  EncodeLength.of_encode _ rfl (encodeUop_length .clr .byte (.mem rd))
theorem EncodeLength.clrBInd (rd : Reg) (off : BitVec 14) : EncodeLength.Statement (.clrBInd rd off) :=
  EncodeLength.of_encode _ rfl (encodeUop_length .clr .byte (.ind rd off))
theorem EncodeLength.cpzAddr16 (addr : BitVec 16) : EncodeLength.Statement (.cpzAddr16 addr) :=
  EncodeLength.of_encode _ rfl (encodeUop_length .cpz .quad (.addr16 addr))
theorem EncodeLength.cpzAddr32 (addr : BitVec 32) : EncodeLength.Statement (.cpzAddr32 addr) :=
  EncodeLength.of_encode _ rfl (encodeUop_length .cpz .quad (.addr32 addr))
theorem EncodeLength.cpzMem (rd : Reg) : EncodeLength.Statement (.cpzMem rd) :=
  EncodeLength.of_encode _ rfl (encodeUop_length .cpz .quad (.mem rd))
theorem EncodeLength.cpzInd (rd : Reg) (off : BitVec 14) : EncodeLength.Statement (.cpzInd rd off) :=
  EncodeLength.of_encode _ rfl (encodeUop_length .cpz .quad (.ind rd off))
theorem EncodeLength.cpzWAddr16 (addr : BitVec 16) : EncodeLength.Statement (.cpzWAddr16 addr) :=
  EncodeLength.of_encode _ rfl (encodeUop_length .cpz .word (.addr16 addr))
theorem EncodeLength.cpzWAddr32 (addr : BitVec 32) : EncodeLength.Statement (.cpzWAddr32 addr) :=
  EncodeLength.of_encode _ rfl (encodeUop_length .cpz .word (.addr32 addr))
theorem EncodeLength.cpzWMem (rd : Reg) : EncodeLength.Statement (.cpzWMem rd) :=
  EncodeLength.of_encode _ rfl (encodeUop_length .cpz .word (.mem rd))
theorem EncodeLength.cpzWInd (rd : Reg) (off : BitVec 14) : EncodeLength.Statement (.cpzWInd rd off) :=
  EncodeLength.of_encode _ rfl (encodeUop_length .cpz .word (.ind rd off))
theorem EncodeLength.cpzBAddr16 (addr : BitVec 16) : EncodeLength.Statement (.cpzBAddr16 addr) :=
  EncodeLength.of_encode _ rfl (encodeUop_length .cpz .byte (.addr16 addr))
theorem EncodeLength.cpzBAddr32 (addr : BitVec 32) : EncodeLength.Statement (.cpzBAddr32 addr) :=
  EncodeLength.of_encode _ rfl (encodeUop_length .cpz .byte (.addr32 addr))
theorem EncodeLength.cpzBMem (rd : Reg) : EncodeLength.Statement (.cpzBMem rd) :=
  EncodeLength.of_encode _ rfl (encodeUop_length .cpz .byte (.mem rd))
theorem EncodeLength.cpzBInd (rd : Reg) (off : BitVec 14) : EncodeLength.Statement (.cpzBInd rd off) :=
  EncodeLength.of_encode _ rfl (encodeUop_length .cpz .byte (.ind rd off))
theorem EncodeLength.incAddr16 (addr : BitVec 16) : EncodeLength.Statement (.incAddr16 addr) :=
  EncodeLength.of_encode _ rfl (encodeUop_length .inc .quad (.addr16 addr))
theorem EncodeLength.incAddr32 (addr : BitVec 32) : EncodeLength.Statement (.incAddr32 addr) :=
  EncodeLength.of_encode _ rfl (encodeUop_length .inc .quad (.addr32 addr))
theorem EncodeLength.incMem (rd : Reg) : EncodeLength.Statement (.incMem rd) :=
  EncodeLength.of_encode _ rfl (encodeUop_length .inc .quad (.mem rd))
theorem EncodeLength.incInd (rd : Reg) (off : BitVec 14) : EncodeLength.Statement (.incInd rd off) :=
  EncodeLength.of_encode _ rfl (encodeUop_length .inc .quad (.ind rd off))
theorem EncodeLength.incWAddr16 (addr : BitVec 16) : EncodeLength.Statement (.incWAddr16 addr) :=
  EncodeLength.of_encode _ rfl (encodeUop_length .inc .word (.addr16 addr))
theorem EncodeLength.incWAddr32 (addr : BitVec 32) : EncodeLength.Statement (.incWAddr32 addr) :=
  EncodeLength.of_encode _ rfl (encodeUop_length .inc .word (.addr32 addr))
theorem EncodeLength.incWMem (rd : Reg) : EncodeLength.Statement (.incWMem rd) :=
  EncodeLength.of_encode _ rfl (encodeUop_length .inc .word (.mem rd))
theorem EncodeLength.incWInd (rd : Reg) (off : BitVec 14) : EncodeLength.Statement (.incWInd rd off) :=
  EncodeLength.of_encode _ rfl (encodeUop_length .inc .word (.ind rd off))
theorem EncodeLength.incBAddr16 (addr : BitVec 16) : EncodeLength.Statement (.incBAddr16 addr) :=
  EncodeLength.of_encode _ rfl (encodeUop_length .inc .byte (.addr16 addr))
theorem EncodeLength.incBAddr32 (addr : BitVec 32) : EncodeLength.Statement (.incBAddr32 addr) :=
  EncodeLength.of_encode _ rfl (encodeUop_length .inc .byte (.addr32 addr))
theorem EncodeLength.incBMem (rd : Reg) : EncodeLength.Statement (.incBMem rd) :=
  EncodeLength.of_encode _ rfl (encodeUop_length .inc .byte (.mem rd))
theorem EncodeLength.incBInd (rd : Reg) (off : BitVec 14) : EncodeLength.Statement (.incBInd rd off) :=
  EncodeLength.of_encode _ rfl (encodeUop_length .inc .byte (.ind rd off))
theorem EncodeLength.decAddr16 (addr : BitVec 16) : EncodeLength.Statement (.decAddr16 addr) :=
  EncodeLength.of_encode _ rfl (encodeUop_length .dec .quad (.addr16 addr))
theorem EncodeLength.decAddr32 (addr : BitVec 32) : EncodeLength.Statement (.decAddr32 addr) :=
  EncodeLength.of_encode _ rfl (encodeUop_length .dec .quad (.addr32 addr))
theorem EncodeLength.decMem (rd : Reg) : EncodeLength.Statement (.decMem rd) :=
  EncodeLength.of_encode _ rfl (encodeUop_length .dec .quad (.mem rd))
theorem EncodeLength.decInd (rd : Reg) (off : BitVec 14) : EncodeLength.Statement (.decInd rd off) :=
  EncodeLength.of_encode _ rfl (encodeUop_length .dec .quad (.ind rd off))
theorem EncodeLength.decWAddr16 (addr : BitVec 16) : EncodeLength.Statement (.decWAddr16 addr) :=
  EncodeLength.of_encode _ rfl (encodeUop_length .dec .word (.addr16 addr))
theorem EncodeLength.decWAddr32 (addr : BitVec 32) : EncodeLength.Statement (.decWAddr32 addr) :=
  EncodeLength.of_encode _ rfl (encodeUop_length .dec .word (.addr32 addr))
theorem EncodeLength.decWMem (rd : Reg) : EncodeLength.Statement (.decWMem rd) :=
  EncodeLength.of_encode _ rfl (encodeUop_length .dec .word (.mem rd))
theorem EncodeLength.decWInd (rd : Reg) (off : BitVec 14) : EncodeLength.Statement (.decWInd rd off) :=
  EncodeLength.of_encode _ rfl (encodeUop_length .dec .word (.ind rd off))
theorem EncodeLength.decBAddr16 (addr : BitVec 16) : EncodeLength.Statement (.decBAddr16 addr) :=
  EncodeLength.of_encode _ rfl (encodeUop_length .dec .byte (.addr16 addr))
theorem EncodeLength.decBAddr32 (addr : BitVec 32) : EncodeLength.Statement (.decBAddr32 addr) :=
  EncodeLength.of_encode _ rfl (encodeUop_length .dec .byte (.addr32 addr))
theorem EncodeLength.decBMem (rd : Reg) : EncodeLength.Statement (.decBMem rd) :=
  EncodeLength.of_encode _ rfl (encodeUop_length .dec .byte (.mem rd))
theorem EncodeLength.decBInd (rd : Reg) (off : BitVec 14) : EncodeLength.Statement (.decBInd rd off) :=
  EncodeLength.of_encode _ rfl (encodeUop_length .dec .byte (.ind rd off))
theorem EncodeLength.ldPc (rd : Reg) (off : BitVec 14) : EncodeLength.Statement (.ldPc rd off) :=
  EncodeLength.of_encode _ rfl (encodeLoad_length .q rd (.pc off))
theorem EncodeLength.ldAddr16 (rd : Reg) (addr : BitVec 16) : EncodeLength.Statement (.ldAddr16 rd addr) :=
  EncodeLength.of_encode _ rfl (encodeLoad_length .q rd (.addr16 addr))
theorem EncodeLength.ldAddr32 (rd : Reg) (addr : BitVec 32) : EncodeLength.Statement (.ldAddr32 rd addr) :=
  EncodeLength.of_encode _ rfl (encodeLoad_length .q rd (.addr32 addr))
theorem EncodeLength.ldMem (rd : Reg) (rs : Reg) : EncodeLength.Statement (.ldMem rd rs) :=
  EncodeLength.of_encode _ rfl (encodeLoad_length .q rd (.mem rs))
theorem EncodeLength.ldPostInc (rd : Reg) (rs : Reg) : EncodeLength.Statement (.ldPostInc rd rs) :=
  EncodeLength.of_encode _ rfl (encodeLoad_length .q rd (.postInc rs))
theorem EncodeLength.ldInd (rd : Reg) (rs : Reg) (off : BitVec 14) : EncodeLength.Statement (.ldInd rd rs off) :=
  EncodeLength.of_encode _ rfl (encodeLoad_length .q rd (.ind rs off))
theorem EncodeLength.ldFp (rd : Reg) (off : BitVec 6) : EncodeLength.Statement (.ldFp rd off) :=
  EncodeLength.of_encode _ rfl (encodeLoad_length .q rd (.fp off))
theorem EncodeLength.ldUBPc (rd : Reg) (off : BitVec 14) : EncodeLength.Statement (.ldUBPc rd off) :=
  EncodeLength.of_encode _ rfl (encodeLoad_length .ub rd (.pc off))
theorem EncodeLength.ldUBAddr16 (rd : Reg) (addr : BitVec 16) : EncodeLength.Statement (.ldUBAddr16 rd addr) :=
  EncodeLength.of_encode _ rfl (encodeLoad_length .ub rd (.addr16 addr))
theorem EncodeLength.ldUBAddr32 (rd : Reg) (addr : BitVec 32) : EncodeLength.Statement (.ldUBAddr32 rd addr) :=
  EncodeLength.of_encode _ rfl (encodeLoad_length .ub rd (.addr32 addr))
theorem EncodeLength.ldUBMem (rd : Reg) (rs : Reg) : EncodeLength.Statement (.ldUBMem rd rs) :=
  EncodeLength.of_encode _ rfl (encodeLoad_length .ub rd (.mem rs))
theorem EncodeLength.ldUBPostInc (rd : Reg) (rs : Reg) : EncodeLength.Statement (.ldUBPostInc rd rs) :=
  EncodeLength.of_encode _ rfl (encodeLoad_length .ub rd (.postInc rs))
theorem EncodeLength.ldUBInd (rd : Reg) (rs : Reg) (off : BitVec 14) : EncodeLength.Statement (.ldUBInd rd rs off) :=
  EncodeLength.of_encode _ rfl (encodeLoad_length .ub rd (.ind rs off))
theorem EncodeLength.ldUBFp (rd : Reg) (off : BitVec 6) : EncodeLength.Statement (.ldUBFp rd off) :=
  EncodeLength.of_encode _ rfl (encodeLoad_length .ub rd (.fp off))
theorem EncodeLength.ldUWPc (rd : Reg) (off : BitVec 14) : EncodeLength.Statement (.ldUWPc rd off) :=
  EncodeLength.of_encode _ rfl (encodeLoad_length .uw rd (.pc off))
theorem EncodeLength.ldUWAddr16 (rd : Reg) (addr : BitVec 16) : EncodeLength.Statement (.ldUWAddr16 rd addr) :=
  EncodeLength.of_encode _ rfl (encodeLoad_length .uw rd (.addr16 addr))
theorem EncodeLength.ldUWAddr32 (rd : Reg) (addr : BitVec 32) : EncodeLength.Statement (.ldUWAddr32 rd addr) :=
  EncodeLength.of_encode _ rfl (encodeLoad_length .uw rd (.addr32 addr))
theorem EncodeLength.ldUWMem (rd : Reg) (rs : Reg) : EncodeLength.Statement (.ldUWMem rd rs) :=
  EncodeLength.of_encode _ rfl (encodeLoad_length .uw rd (.mem rs))
theorem EncodeLength.ldUWPostInc (rd : Reg) (rs : Reg) : EncodeLength.Statement (.ldUWPostInc rd rs) :=
  EncodeLength.of_encode _ rfl (encodeLoad_length .uw rd (.postInc rs))
theorem EncodeLength.ldUWInd (rd : Reg) (rs : Reg) (off : BitVec 14) : EncodeLength.Statement (.ldUWInd rd rs off) :=
  EncodeLength.of_encode _ rfl (encodeLoad_length .uw rd (.ind rs off))
theorem EncodeLength.ldUWFp (rd : Reg) (off : BitVec 6) : EncodeLength.Statement (.ldUWFp rd off) :=
  EncodeLength.of_encode _ rfl (encodeLoad_length .uw rd (.fp off))
theorem EncodeLength.ldSBPc (rd : Reg) (off : BitVec 14) : EncodeLength.Statement (.ldSBPc rd off) :=
  EncodeLength.of_encode _ rfl (encodeLoad_length .sb rd (.pc off))
theorem EncodeLength.ldSBAddr16 (rd : Reg) (addr : BitVec 16) : EncodeLength.Statement (.ldSBAddr16 rd addr) :=
  EncodeLength.of_encode _ rfl (encodeLoad_length .sb rd (.addr16 addr))
theorem EncodeLength.ldSBAddr32 (rd : Reg) (addr : BitVec 32) : EncodeLength.Statement (.ldSBAddr32 rd addr) :=
  EncodeLength.of_encode _ rfl (encodeLoad_length .sb rd (.addr32 addr))
theorem EncodeLength.ldSBMem (rd : Reg) (rs : Reg) : EncodeLength.Statement (.ldSBMem rd rs) :=
  EncodeLength.of_encode _ rfl (encodeLoad_length .sb rd (.mem rs))
theorem EncodeLength.ldSBPostInc (rd : Reg) (rs : Reg) : EncodeLength.Statement (.ldSBPostInc rd rs) :=
  EncodeLength.of_encode _ rfl (encodeLoad_length .sb rd (.postInc rs))
theorem EncodeLength.ldSBInd (rd : Reg) (rs : Reg) (off : BitVec 14) : EncodeLength.Statement (.ldSBInd rd rs off) :=
  EncodeLength.of_encode _ rfl (encodeLoad_length .sb rd (.ind rs off))
theorem EncodeLength.ldSBFp (rd : Reg) (off : BitVec 6) : EncodeLength.Statement (.ldSBFp rd off) :=
  EncodeLength.of_encode _ rfl (encodeLoad_length .sb rd (.fp off))
theorem EncodeLength.ldSWPc (rd : Reg) (off : BitVec 14) : EncodeLength.Statement (.ldSWPc rd off) :=
  EncodeLength.of_encode _ rfl (encodeLoad_length .sw rd (.pc off))
theorem EncodeLength.ldSWAddr16 (rd : Reg) (addr : BitVec 16) : EncodeLength.Statement (.ldSWAddr16 rd addr) :=
  EncodeLength.of_encode _ rfl (encodeLoad_length .sw rd (.addr16 addr))
theorem EncodeLength.ldSWAddr32 (rd : Reg) (addr : BitVec 32) : EncodeLength.Statement (.ldSWAddr32 rd addr) :=
  EncodeLength.of_encode _ rfl (encodeLoad_length .sw rd (.addr32 addr))
theorem EncodeLength.ldSWMem (rd : Reg) (rs : Reg) : EncodeLength.Statement (.ldSWMem rd rs) :=
  EncodeLength.of_encode _ rfl (encodeLoad_length .sw rd (.mem rs))
theorem EncodeLength.ldSWPostInc (rd : Reg) (rs : Reg) : EncodeLength.Statement (.ldSWPostInc rd rs) :=
  EncodeLength.of_encode _ rfl (encodeLoad_length .sw rd (.postInc rs))
theorem EncodeLength.ldSWInd (rd : Reg) (rs : Reg) (off : BitVec 14) : EncodeLength.Statement (.ldSWInd rd rs off) :=
  EncodeLength.of_encode _ rfl (encodeLoad_length .sw rd (.ind rs off))
theorem EncodeLength.ldSWFp (rd : Reg) (off : BitVec 6) : EncodeLength.Statement (.ldSWFp rd off) :=
  EncodeLength.of_encode _ rfl (encodeLoad_length .sw rd (.fp off))
theorem EncodeLength.ldToAddr16 (addr : BitVec 16) (rs : Reg) : EncodeLength.Statement (.ldToAddr16 addr rs) :=
  EncodeLength.of_encode _ rfl (encodeStore_length .quad (.addr16 addr) rs)
theorem EncodeLength.ldToAddr32 (addr : BitVec 32) (rs : Reg) : EncodeLength.Statement (.ldToAddr32 addr rs) :=
  EncodeLength.of_encode _ rfl (encodeStore_length .quad (.addr32 addr) rs)
theorem EncodeLength.ldToMem (rd : Reg) (rs : Reg) : EncodeLength.Statement (.ldToMem rd rs) :=
  EncodeLength.of_encode _ rfl (encodeStore_length .quad (.mem rd) rs)
theorem EncodeLength.ldToPre (rd : Reg) (rs : Reg) : EncodeLength.Statement (.ldToPre rd rs) :=
  EncodeLength.of_encode _ rfl (encodeStore_length .quad (.preDec rd) rs)
theorem EncodeLength.ldToPost (rd : Reg) (rs : Reg) : EncodeLength.Statement (.ldToPost rd rs) :=
  EncodeLength.of_encode _ rfl (encodeStore_length .quad (.postInc rd) rs)
theorem EncodeLength.ldToInd (rd : Reg) (off : BitVec 14) (rs : Reg) : EncodeLength.Statement (.ldToInd rd off rs) :=
  EncodeLength.of_encode _ rfl (encodeStore_length .quad (.ind rd off) rs)
theorem EncodeLength.ldToFp (off : BitVec 6) (rs : Reg) : EncodeLength.Statement (.ldToFp off rs) :=
  EncodeLength.of_encode _ rfl (encodeStore_length .quad (.fp off) rs)
theorem EncodeLength.ldWToAddr16 (addr : BitVec 16) (rs : Reg) : EncodeLength.Statement (.ldWToAddr16 addr rs) :=
  EncodeLength.of_encode _ rfl (encodeStore_length .word (.addr16 addr) rs)
theorem EncodeLength.ldWToAddr32 (addr : BitVec 32) (rs : Reg) : EncodeLength.Statement (.ldWToAddr32 addr rs) :=
  EncodeLength.of_encode _ rfl (encodeStore_length .word (.addr32 addr) rs)
theorem EncodeLength.ldWToMem (rd : Reg) (rs : Reg) : EncodeLength.Statement (.ldWToMem rd rs) :=
  EncodeLength.of_encode _ rfl (encodeStore_length .word (.mem rd) rs)
theorem EncodeLength.ldWToPre (rd : Reg) (rs : Reg) : EncodeLength.Statement (.ldWToPre rd rs) :=
  EncodeLength.of_encode _ rfl (encodeStore_length .word (.preDec rd) rs)
theorem EncodeLength.ldWToPost (rd : Reg) (rs : Reg) : EncodeLength.Statement (.ldWToPost rd rs) :=
  EncodeLength.of_encode _ rfl (encodeStore_length .word (.postInc rd) rs)
theorem EncodeLength.ldWToInd (rd : Reg) (off : BitVec 14) (rs : Reg) : EncodeLength.Statement (.ldWToInd rd off rs) :=
  EncodeLength.of_encode _ rfl (encodeStore_length .word (.ind rd off) rs)
theorem EncodeLength.ldWToFp (off : BitVec 6) (rs : Reg) : EncodeLength.Statement (.ldWToFp off rs) :=
  EncodeLength.of_encode _ rfl (encodeStore_length .word (.fp off) rs)
theorem EncodeLength.ldBToAddr16 (addr : BitVec 16) (rs : Reg) : EncodeLength.Statement (.ldBToAddr16 addr rs) :=
  EncodeLength.of_encode _ rfl (encodeStore_length .byte (.addr16 addr) rs)
theorem EncodeLength.ldBToAddr32 (addr : BitVec 32) (rs : Reg) : EncodeLength.Statement (.ldBToAddr32 addr rs) :=
  EncodeLength.of_encode _ rfl (encodeStore_length .byte (.addr32 addr) rs)
theorem EncodeLength.ldBToMem (rd : Reg) (rs : Reg) : EncodeLength.Statement (.ldBToMem rd rs) :=
  EncodeLength.of_encode _ rfl (encodeStore_length .byte (.mem rd) rs)
theorem EncodeLength.ldBToPre (rd : Reg) (rs : Reg) : EncodeLength.Statement (.ldBToPre rd rs) :=
  EncodeLength.of_encode _ rfl (encodeStore_length .byte (.preDec rd) rs)
theorem EncodeLength.ldBToPost (rd : Reg) (rs : Reg) : EncodeLength.Statement (.ldBToPost rd rs) :=
  EncodeLength.of_encode _ rfl (encodeStore_length .byte (.postInc rd) rs)
theorem EncodeLength.ldBToInd (rd : Reg) (off : BitVec 14) (rs : Reg) : EncodeLength.Statement (.ldBToInd rd off rs) :=
  EncodeLength.of_encode _ rfl (encodeStore_length .byte (.ind rd off) rs)
theorem EncodeLength.ldBToFp (off : BitVec 6) (rs : Reg) : EncodeLength.Statement (.ldBToFp off rs) :=
  EncodeLength.of_encode _ rfl (encodeStore_length .byte (.fp off) rs)
theorem EncodeLength.ldMemImm32 (rd : Reg) (imm : BitVec 32) : EncodeLength.Statement (.ldMemImm32 rd imm) :=
  EncodeLength.of_encode _ rfl (encodeStoreImm_length .mem rd (.imm32 imm))
theorem EncodeLength.ldPreImm32 (rd : Reg) (imm : BitVec 32) : EncodeLength.Statement (.ldPreImm32 rd imm) :=
  EncodeLength.of_encode _ rfl (encodeStoreImm_length .preDec rd (.imm32 imm))
theorem EncodeLength.ldPostImm32 (rd : Reg) (imm : BitVec 32) : EncodeLength.Statement (.ldPostImm32 rd imm) :=
  EncodeLength.of_encode _ rfl (encodeStoreImm_length .postInc rd (.imm32 imm))
theorem EncodeLength.ldMemSimm16 (rd : Reg) (imm : BitVec 16) : EncodeLength.Statement (.ldMemSimm16 rd imm) :=
  EncodeLength.of_encode _ rfl (encodeStoreImm_length .mem rd (.simm16 imm))
theorem EncodeLength.ldPreSimm16 (rd : Reg) (imm : BitVec 16) : EncodeLength.Statement (.ldPreSimm16 rd imm) :=
  EncodeLength.of_encode _ rfl (encodeStoreImm_length .preDec rd (.simm16 imm))
theorem EncodeLength.ldPostSimm16 (rd : Reg) (imm : BitVec 16) : EncodeLength.Statement (.ldPostSimm16 rd imm) :=
  EncodeLength.of_encode _ rfl (encodeStoreImm_length .postInc rd (.simm16 imm))
theorem EncodeLength.ldWMemImm16 (rd : Reg) (imm : BitVec 16) : EncodeLength.Statement (.ldWMemImm16 rd imm) :=
  EncodeLength.of_encode _ rfl (encodeStoreImm_length .mem rd (.wImm16 imm))
theorem EncodeLength.ldWPreImm16 (rd : Reg) (imm : BitVec 16) : EncodeLength.Statement (.ldWPreImm16 rd imm) :=
  EncodeLength.of_encode _ rfl (encodeStoreImm_length .preDec rd (.wImm16 imm))
theorem EncodeLength.ldWPostImm16 (rd : Reg) (imm : BitVec 16) : EncodeLength.Statement (.ldWPostImm16 rd imm) :=
  EncodeLength.of_encode _ rfl (encodeStoreImm_length .postInc rd (.wImm16 imm))
theorem EncodeLength.ldBMemImm8 (rd : Reg) (imm : BitVec 8) : EncodeLength.Statement (.ldBMemImm8 rd imm) :=
  EncodeLength.of_encode _ rfl (encodeStoreImm_length .mem rd (.bImm8 imm))
theorem EncodeLength.ldBPreImm8 (rd : Reg) (imm : BitVec 8) : EncodeLength.Statement (.ldBPreImm8 rd imm) :=
  EncodeLength.of_encode _ rfl (encodeStoreImm_length .preDec rd (.bImm8 imm))
theorem EncodeLength.ldBPostImm8 (rd : Reg) (imm : BitVec 8) : EncodeLength.Statement (.ldBPostImm8 rd imm) :=
  EncodeLength.of_encode _ rfl (encodeStoreImm_length .postInc rd (.bImm8 imm))
theorem EncodeLength.ldSimm8 (rd : Reg) (imm : BitVec 8) : EncodeLength.Statement (.ldSimm8 rd imm) :=
  EncodeLength.of_encode ([0x3#4 ++ rd ++ imm]) rfl (by simp [instrWords])
theorem EncodeLength.ldSimm17 (rd : Reg) (imm : BitVec 17) : EncodeLength.Statement (.ldSimm17 rd imm) :=
  EncodeLength.of_encode ([0x45#8 ++ 0#3 ++ imm.extractLsb' 16 1 ++ rd, imm.extractLsb' 0 16]) rfl
    (by simp [instrWords]; generalize imm.extractLsb' 16 1 = h; revert h; decide)
theorem EncodeLength.ldImm32 (rd : Reg) (imm : BitVec 32) : EncodeLength.Statement (.ldImm32 rd imm) :=
  EncodeLength.of_encode ((0x452#12 ++ rd) :: quadWords imm) rfl (by simp [instrWords])
theorem EncodeLength.ldReg (rd : Reg) (rs : Reg) : EncodeLength.Statement (.ldReg rd rs) :=
  EncodeLength.of_encode ([0x44#8 ++ rs ++ rd]) rfl (by simp [instrWords])
theorem EncodeLength.ldCc (cc : CC) (rd : Reg) : EncodeLength.Statement (.ldCc cc rd) :=
  EncodeLength.of_encode ([0x01#8 ++ cc ++ rd]) rfl (by simp [instrWords])
theorem EncodeLength.ldes (rd : Reg) : EncodeLength.Statement (.ldes rd) :=
  EncodeLength.of_encode ([0x453#12 ++ rd]) rfl (by simp [instrWords])
theorem EncodeLength.leaPc (rd : Reg) (off : BitVec 14) : EncodeLength.Statement (.leaPc rd off) :=
  EncodeLength.of_encode ([0x002#12 ++ rd, 0b10#2 ++ off]) rfl (by simp [instrWords])
theorem EncodeLength.leaInd (rd : Reg) (rs : Reg) (off : BitVec 14) : EncodeLength.Statement (.leaInd rd rs off) :=
  EncodeLength.of_encode ([0x48#8 ++ rs ++ rd, 0b10#2 ++ off]) rfl (by simp [instrWords])
theorem EncodeLength.leaFp (rd : Reg) (off : BitVec 6) : EncodeLength.Statement (.leaFp rd off) :=
  EncodeLength.of_encode ([0b010011#6 ++ off ++ rd]) rfl
    (by simp [instrWords]; revert off; decide)
theorem EncodeLength.extUB (rd : Reg) (rs : Reg) : EncodeLength.Statement (.extUB rd rs) :=
  EncodeLength.of_encode ([0x40#8 ++ rs ++ rd]) rfl (by simp [instrWords])
theorem EncodeLength.extUW (rd : Reg) (rs : Reg) : EncodeLength.Statement (.extUW rd rs) :=
  EncodeLength.of_encode ([0x41#8 ++ rs ++ rd]) rfl (by simp [instrWords])
theorem EncodeLength.extSB (rd : Reg) (rs : Reg) : EncodeLength.Statement (.extSB rd rs) :=
  EncodeLength.of_encode ([0x42#8 ++ rs ++ rd]) rfl (by simp [instrWords])
theorem EncodeLength.extSW (rd : Reg) (rs : Reg) : EncodeLength.Statement (.extSW rd rs) :=
  EncodeLength.of_encode ([0x43#8 ++ rs ++ rd]) rfl (by simp [instrWords])
theorem EncodeLength.com (rd : Reg) : EncodeLength.Statement (.com rd) :=
  EncodeLength.of_encode ([0x454#12 ++ rd]) rfl (by simp [instrWords])
theorem EncodeLength.neg (rd : Reg) : EncodeLength.Statement (.neg rd) :=
  EncodeLength.of_encode ([0x455#12 ++ rd]) rfl (by simp [instrWords])
theorem EncodeLength.pushBImm8 (imm : BitVec 8) : EncodeLength.Statement (.pushBImm8 imm) :=
  EncodeLength.of_encode ([0x0A#8 ++ imm]) rfl (by simp [instrWords])
theorem EncodeLength.pushWSimm8 (imm : BitVec 8) : EncodeLength.Statement (.pushWSimm8 imm) :=
  EncodeLength.of_encode ([0x0C#8 ++ imm]) rfl (by simp [instrWords])
theorem EncodeLength.pushSimm8 (imm : BitVec 8) : EncodeLength.Statement (.pushSimm8 imm) :=
  EncodeLength.of_encode ([0x0D#8 ++ imm]) rfl (by simp [instrWords])
theorem EncodeLength.pop (rd : Reg) : EncodeLength.Statement (.pop rd) :=
  EncodeLength.of_encode ([0x13F#12 ++ rd]) rfl (by simp [instrWords])
theorem EncodeLength.popUB (rd : Reg) : EncodeLength.Statement (.popUB rd) :=
  EncodeLength.of_encode ([0x19F#12 ++ rd]) rfl (by simp [instrWords])
theorem EncodeLength.popUW (rd : Reg) : EncodeLength.Statement (.popUW rd) :=
  EncodeLength.of_encode ([0x1BF#12 ++ rd]) rfl (by simp [instrWords])
theorem EncodeLength.popSB (rd : Reg) : EncodeLength.Statement (.popSB rd) :=
  EncodeLength.of_encode ([0x1DF#12 ++ rd]) rfl (by simp [instrWords])
theorem EncodeLength.popSW (rd : Reg) : EncodeLength.Statement (.popSW rd) :=
  EncodeLength.of_encode ([0x1FF#12 ++ rd]) rfl (by simp [instrWords])
theorem EncodeLength.pushmLo (mask : BitVec 8) : EncodeLength.Statement (.pushmLo mask) :=
  EncodeLength.of_encode ([0x04#8 ++ mask]) rfl (by simp [instrWords])
theorem EncodeLength.pushmHi (mask : BitVec 8) : EncodeLength.Statement (.pushmHi mask) :=
  EncodeLength.of_encode ([0x05#8 ++ mask]) rfl (by simp [instrWords])
theorem EncodeLength.popmLo (mask : BitVec 8) : EncodeLength.Statement (.popmLo mask) :=
  EncodeLength.of_encode ([0x06#8 ++ mask]) rfl (by simp [instrWords])
theorem EncodeLength.popmHi (mask : BitVec 8) : EncodeLength.Statement (.popmHi mask) :=
  EncodeLength.of_encode ([0x07#8 ++ mask]) rfl (by simp [instrWords])
theorem EncodeLength.pushf : EncodeLength.Statement (.pushf) :=
  EncodeLength.of_encode [0x0002#16] rfl rfl
theorem EncodeLength.popf : EncodeLength.Statement (.popf) :=
  EncodeLength.of_encode [0x0003#16] rfl rfl
theorem EncodeLength.link (imm : BitVec 8) : EncodeLength.Statement (.link imm) :=
  EncodeLength.of_encode ([0x08#8 ++ imm]) rfl (by simp [instrWords])
theorem EncodeLength.unlink : EncodeLength.Statement (.unlink) :=
  EncodeLength.of_encode [0x0001#16] rfl rfl
theorem EncodeLength.udiv (rd : Reg) (rs : Reg) : EncodeLength.Statement (.udiv rd rs) :=
  EncodeLength.of_encode ([0xAE#8 ++ rs ++ rd]) rfl (by simp [instrWords])
theorem EncodeLength.sdiv (rd : Reg) (rs : Reg) : EncodeLength.Statement (.sdiv rd rs) :=
  EncodeLength.of_encode ([0xAF#8 ++ rs ++ rd]) rfl (by simp [instrWords])
theorem EncodeLength.umul (rd : Reg) (rs : Reg) : EncodeLength.Statement (.umul rd rs) :=
  EncodeLength.of_encode ([0xB0#8 ++ rs ++ rd]) rfl (by simp [instrWords])
theorem EncodeLength.smul (rd : Reg) (rs : Reg) : EncodeLength.Statement (.smul rd rs) :=
  EncodeLength.of_encode ([0xB1#8 ++ rs ++ rd]) rfl (by simp [instrWords])
theorem EncodeLength.mul (rd : Reg) (rs : Reg) : EncodeLength.Statement (.mul rd rs) :=
  EncodeLength.of_encode ([0xB2#8 ++ rs ++ rd]) rfl (by simp [instrWords])
theorem EncodeLength.sraReg (rd : Reg) (rs : Reg) : EncodeLength.Statement (.sraReg rd rs) :=
  EncodeLength.of_encode ([0xB4#8 ++ rs ++ rd]) rfl (by simp [instrWords])
theorem EncodeLength.srlReg (rd : Reg) (rs : Reg) : EncodeLength.Statement (.srlReg rd rs) :=
  EncodeLength.of_encode ([0xB5#8 ++ rs ++ rd]) rfl (by simp [instrWords])
theorem EncodeLength.sllReg (rd : Reg) (rs : Reg) : EncodeLength.Statement (.sllReg rd rs) :=
  EncodeLength.of_encode ([0xB6#8 ++ rs ++ rd]) rfl (by simp [instrWords])
theorem EncodeLength.rlReg (rd : Reg) (rs : Reg) : EncodeLength.Statement (.rlReg rd rs) :=
  EncodeLength.of_encode ([0xB7#8 ++ rs ++ rd]) rfl (by simp [instrWords])
theorem EncodeLength.sraImm (rd : Reg) (imm : BitVec 5) : EncodeLength.Statement (.sraImm rd imm) :=
  EncodeLength.of_encode ([0xB#4 ++ 0b100#3 ++ imm ++ rd]) rfl (by simp [instrWords])
theorem EncodeLength.srlImm (rd : Reg) (imm : BitVec 5) : EncodeLength.Statement (.srlImm rd imm) :=
  EncodeLength.of_encode ([0xB#4 ++ 0b101#3 ++ imm ++ rd]) rfl (by simp [instrWords])
theorem EncodeLength.sllImm (rd : Reg) (imm : BitVec 5) : EncodeLength.Statement (.sllImm rd imm) :=
  EncodeLength.of_encode ([0xB#4 ++ 0b110#3 ++ imm ++ rd]) rfl (by simp [instrWords])
theorem EncodeLength.rlImm (rd : Reg) (imm : BitVec 5) : EncodeLength.Statement (.rlImm rd imm) :=
  EncodeLength.of_encode ([0xB#4 ++ 0b111#3 ++ imm ++ rd]) rfl (by simp [instrWords])
theorem EncodeLength.jpRel12 (rel : BitVec 12) : EncodeLength.Statement (.jpRel12 rel) :=
  EncodeLength.of_encode ([0xC#4 ++ rel]) rfl (by simp [instrWords])
theorem EncodeLength.jpRel24 (rel : BitVec 24) : EncodeLength.Statement (.jpRel24 rel) :=
  EncodeLength.of_encode ([0xF0#8 ++ rel.extractLsb' 16 8, rel.extractLsb' 0 16]) rfl
    (by simp [instrWords])
theorem EncodeLength.jpInd (rs : Reg) : EncodeLength.Statement (.jpInd rs) :=
  EncodeLength.of_encode ([0xF20#12 ++ rs]) rfl (by simp [instrWords])
theorem EncodeLength.jpCcRel8 (cc : CC) (rel : BitVec 8) : EncodeLength.Statement (.jpCcRel8 cc rel) :=
  EncodeLength.of_encode ([0xE#4 ++ cc ++ rel]) rfl (by simp [instrWords])
theorem EncodeLength.jpCcRel16 (cc : CC) (rel : BitVec 16) : EncodeLength.Statement (.jpCcRel16 cc rel) :=
  EncodeLength.of_encode ([0xF22#12 ++ cc, rel]) rfl (by simp [instrWords])
theorem EncodeLength.jpa (imm : BitVec 32) : EncodeLength.Statement (.jpa imm) :=
  EncodeLength.of_encode (0xF230#16 :: quadWords imm) rfl
    (by rw [List.length_cons, quadWords_length, List.headD_cons]; decide)
theorem EncodeLength.callRel12 (rel : BitVec 12) : EncodeLength.Statement (.callRel12 rel) :=
  EncodeLength.of_encode ([0xD#4 ++ rel]) rfl (by simp [instrWords])
theorem EncodeLength.callRel24 (rel : BitVec 24) : EncodeLength.Statement (.callRel24 rel) :=
  EncodeLength.of_encode ([0xF1#8 ++ rel.extractLsb' 16 8, rel.extractLsb' 0 16]) rfl
    (by simp [instrWords])
theorem EncodeLength.callInd (rs : Reg) : EncodeLength.Statement (.callInd rs) :=
  EncodeLength.of_encode ([0xF21#12 ++ rs]) rfl (by simp [instrWords])
theorem EncodeLength.calla (imm : BitVec 32) : EncodeLength.Statement (.calla imm) :=
  EncodeLength.of_encode (0xF231#16 :: quadWords imm) rfl
    (by rw [List.length_cons, quadWords_length, List.headD_cons]; decide)
theorem EncodeLength.djnz (rd : Reg) (rel : BitVec 4) : EncodeLength.Statement (.djnz rd rel) :=
  EncodeLength.of_encode ([0xFD#8 ++ rel ++ rd]) rfl (by simp [instrWords])
theorem EncodeLength.trap (vec : BitVec 8) : EncodeLength.Statement (.trap vec) :=
  EncodeLength.of_encode ([0xFE#8 ++ vec]) rfl (by simp [instrWords])
theorem EncodeLength.ill : EncodeLength.Statement (.ill) :=
  EncodeLength.of_encode [0xFFFF#16] rfl rfl
theorem EncodeLength.ret : EncodeLength.Statement (.ret) :=
  EncodeLength.of_encode [0xFFFC#16] rfl rfl
theorem EncodeLength.iret : EncodeLength.Statement (.iret) :=
  EncodeLength.of_encode [0xFFFD#16] rfl rfl
theorem EncodeLength.brk : EncodeLength.Statement (.brk) :=
  EncodeLength.of_encode [0x0000#16] rfl rfl
theorem EncodeLength.atm : EncodeLength.Statement (.atm) :=
  EncodeLength.of_encode [0x0004#16] rfl rfl
theorem EncodeLength.noflags : EncodeLength.Statement (.noflags) :=
  EncodeLength.of_encode [0x0005#16] rfl rfl
theorem EncodeLength.extend : EncodeLength.Statement (.extend) :=
  EncodeLength.of_encode [0x0007#16] rfl rfl
theorem EncodeLength.wdt : EncodeLength.Statement (.wdt) :=
  EncodeLength.of_encode [0xFFF7#16] rfl rfl
theorem EncodeLength.stop : EncodeLength.Statement (.stop) :=
  EncodeLength.of_encode [0xFFF8#16] rfl rfl
theorem EncodeLength.halt : EncodeLength.Statement (.halt) :=
  EncodeLength.of_encode [0xFFF9#16] rfl rfl
theorem EncodeLength.ei : EncodeLength.Statement (.ei) :=
  EncodeLength.of_encode [0xFFFA#16] rfl rfl
theorem EncodeLength.di : EncodeLength.Statement (.di) :=
  EncodeLength.of_encode [0xFFFB#16] rfl rfl
theorem EncodeLength.nop : EncodeLength.Statement (.nop) :=
  EncodeLength.of_encode [0xFFFE#16] rfl rfl
theorem EncodeLength.cpczReg (rd : Reg) : EncodeLength.Statement (.cpczReg rd) :=
  EncodeLength.of_encode ([0x9#4 ++ rd ++ 0x00#8]) rfl (by simp [instrWords])

end Sys2Proof.Laws
end

