-- ==== Sys2Proof/Tests/Slice0.lean ====
section
/-! SUPPORT. Tests: the well-formedness check refuses what it should, every constructor's words decode to it, the vectors
of spec/95_test_vectors.md (S, E, P) and spec/96_test_vectors_derived.md (V) come out as printed there, and every
statement with hypotheses has a witness that meets them. The expected values are the spec's. -/

set_option maxRecDepth 100000

namespace Sys2Proof.Tests

open Sys2Proof.Machine Sys2Proof.Claims

/-! ### Well-formedness refuses a postincrement load through R15 -/

theorem test_ld_through_sp_is_pop : wellFormed (.ldPostInc 2#4 15#4) = false := by decide
theorem test_ld_ub_through_sp_is_pop : wellFormed (.ldUBPostInc 2#4 15#4) = false := by decide
theorem test_ld_uw_through_sp_is_pop : wellFormed (.ldUWPostInc 2#4 15#4) = false := by decide
theorem test_ld_sb_through_sp_is_pop : wellFormed (.ldSBPostInc 2#4 15#4) = false := by decide
theorem test_ld_sw_through_sp_is_pop : wellFormed (.ldSWPostInc 2#4 15#4) = false := by decide
theorem test_ld_through_fp_is_well_formed : wellFormed (.ldPostInc 15#4 14#4) = true := by decide

/-! ### Decoding: words of every constructor, written out from the encodings of the spec in the order of its opcode table,
with operands that use every bit; a word behind the instruction's last is FFFFH -/

/-- Whether words decode to instructions: the Extend latch, three words, and the instruction. -/
noncomputable def decodesAll (l : List (Bool × Word × Word × Word × Instr)) : Bool :=
  l.all fun (e, a, b, c, i) => decide (decodeWords e a b c = .instr i)
theorem test_decode_words_1 : decodesAll [
  (false, 0xAA8D#16, 0x0D0D#16, 0x100C#16, .addImm32 0xD#4 0xD0D100C#32),
  (false, 0xAA03#16, 0x65AF#16, 0xFFFF#16, .addUimm16 0x3#4 0x65AF#16),
  (false, 0xA0B2#16, 0xFFFF#16, 0xFFFF#16, .addReg 0x2#4 0xB#4),
  (false, 0x704D#16, 0xD07D#16, 0xFFFF#16, .addAddr16 0xD#4 0xD07D#16),
  (false, 0x70CA#16, 0x6DC6#16, 0x278C#16, .addAddr32 0xA#4 0x6DC6278C#32),
  (false, 0x784C#16, 0x9AFF#16, 0xFFFF#16, .addInd 0xC#4 0x4#4 0x1AFF#13),
  (false, 0x7032#16, 0xCEBF#16, 0xFFFF#16, .addSWAddr16 0x2#4 0xCEBF#16),
  (false, 0x70B9#16, 0xFFEE#16, 0x3AE2#16, .addSWAddr32 0x9#4 0xFFEE3AE2#32),
  (false, 0x7810#16, 0x6A78#16, 0xFFFF#16, .addSWInd 0x0#4 0x1#4 0xA78#13),
  (false, 0x702B#16, 0xD5EF#16, 0xFFFF#16, .addUWAddr16 0xB#4 0xD5EF#16),
  (false, 0x70A3#16, 0x157B#16, 0xEFBD#16, .addUWAddr32 0x3#4 0x157BEFBD#32),
  (false, 0x7829#16, 0x4D37#16, 0xFFFF#16, .addUWInd 0x9#4 0x2#4 0xD37#13),
  (false, 0x7018#16, 0xF718#16, 0xFFFF#16, .addSBAddr16 0x8#4 0xF718#16),
  (false, 0x709F#16, 0xDAF3#16, 0xA236#16, .addSBAddr32 0xF#4 0xDAF3A236#32),
  (false, 0x7806#16, 0x2414#16, 0xFFFF#16, .addSBInd 0x6#4 0x0#4 0x414#13),
  (false, 0x7009#16, 0x7CA9#16, 0xFFFF#16, .addUBAddr16 0x9#4 0x7CA9#16),
  (false, 0x7089#16, 0xC42F#16, 0x244D#16, .addUBAddr32 0x9#4 0xC42F244D#32),
  (false, 0x78F7#16, 0x1100#16, 0xFFFF#16, .addUBInd 0x7#4 0xF#4 0x1100#13),
  (false, 0x707E#16, 0xFE0E#16, 0xFFFF#16, .addToAddr16 0xFE0E#16 0xE#4),
  (false, 0x70FA#16, 0x9733#16, 0x80EE#16, .addToAddr32 0x973380EE#32 0xA#4),
  (false, 0x7883#16, 0xEB11#16, 0xFFFF#16, .addToInd 0x3#4 0xB11#13 0x8#4),
  (false, 0x7064#16, 0x6784#16, 0xFFFF#16, .addWToAddr16 0x6784#16 0x4#4),
  (false, 0x70E4#16, 0x0F98#16, 0xDC4A#16, .addWToAddr32 0xF98DC4A#32 0x4#4),
  (false, 0x788C#16, 0xDD23#16, 0xFFFF#16, .addWToInd 0xC#4 0x1D23#13 0x8#4),
  (false, 0x7055#16, 0x4F01#16, 0xFFFF#16, .addBToAddr16 0x4F01#16 0x5#4),
  (false, 0x70DC#16, 0xAC27#16, 0x7698#16, .addBToAddr32 0xAC277698#32 0xC#4),
  (false, 0x7883#16, 0xB96C#16, 0xFFFF#16, .addBToInd 0x3#4 0x196C#13 0x8#4),
  (false, 0xAB8E#16, 0x315C#16, 0x8AF9#16, .addMemImm32 0xE#4 0x315C8AF9#32),
  (false, 0xAD09#16, 0x8E86#16, 0xFFFF#16, .addMemSimm16 0x9#4 0x8E86#16),
  (false, 0xAB08#16, 0xECE8#16, 0xFFFF#16, .addWMemImm16 0x8#4 0xECE8#16),
  (false, 0xAD9E#16, 0x206D#16, 0xFFFF#16, .addBMemImm8 0xE#4 0x6D#8),
  (false, 0xAA9D#16, 0x4552#16, 0x5A05#16, .subImm32 0xD#4 0x45525A05#32),
  (false, 0xAA16#16, 0x434E#16, 0xFFFF#16, .subUimm16 0x6#4 0x434E#16),
  (false, 0xA14E#16, 0xFFFF#16, 0xFFFF#16, .subReg 0xE#4 0x4#4),
  (false, 0x714C#16, 0xDB3A#16, 0xFFFF#16, .subAddr16 0xC#4 0xDB3A#16),
  (false, 0x71C5#16, 0x2D30#16, 0x9C2B#16, .subAddr32 0x5#4 0x2D309C2B#32),
  (false, 0x7918#16, 0x9E55#16, 0xFFFF#16, .subInd 0x8#4 0x1#4 0x1E55#13),
  (false, 0x7136#16, 0xB894#16, 0xFFFF#16, .subSWAddr16 0x6#4 0xB894#16),
  (false, 0x71B7#16, 0x48AC#16, 0xA7E4#16, .subSWAddr32 0x7#4 0x48ACA7E4#32),
  (false, 0x7990#16, 0x7237#16, 0xFFFF#16, .subSWInd 0x0#4 0x9#4 0x1237#13)] = true := by decide
theorem test_decode_words_2 : decodesAll [
  (false, 0x7123#16, 0xE4BB#16, 0xFFFF#16, .subUWAddr16 0x3#4 0xE4BB#16),
  (false, 0x71A4#16, 0x85F3#16, 0x6625#16, .subUWAddr32 0x4#4 0x85F36625#32),
  (false, 0x792C#16, 0x41AF#16, 0xFFFF#16, .subUWInd 0xC#4 0x2#4 0x1AF#13),
  (false, 0x711D#16, 0xE697#16, 0xFFFF#16, .subSBAddr16 0xD#4 0xE697#16),
  (false, 0x7191#16, 0x671E#16, 0x7C49#16, .subSBAddr32 0x1#4 0x671E7C49#32),
  (false, 0x796D#16, 0x2F21#16, 0xFFFF#16, .subSBInd 0xD#4 0x6#4 0xF21#13),
  (false, 0x7106#16, 0x56C0#16, 0xFFFF#16, .subUBAddr16 0x6#4 0x56C0#16),
  (false, 0x718D#16, 0xE24B#16, 0xEF14#16, .subUBAddr32 0xD#4 0xE24BEF14#32),
  (false, 0x791D#16, 0x0E1F#16, 0xFFFF#16, .subUBInd 0xD#4 0x1#4 0xE1F#13),
  (false, 0x7175#16, 0xE8BF#16, 0xFFFF#16, .subToAddr16 0xE8BF#16 0x5#4),
  (false, 0x71F9#16, 0x7105#16, 0xA1CD#16, .subToAddr32 0x7105A1CD#32 0x9#4),
  (false, 0x7928#16, 0xE7C9#16, 0xFFFF#16, .subToInd 0x8#4 0x7C9#13 0x2#4),
  (false, 0x7162#16, 0x44AC#16, 0xFFFF#16, .subWToAddr16 0x44AC#16 0x2#4),
  (false, 0x71E8#16, 0xD69C#16, 0xC5A2#16, .subWToAddr32 0xD69CC5A2#32 0x8#4),
  (false, 0x796A#16, 0xCFDC#16, 0xFFFF#16, .subWToInd 0xA#4 0xFDC#13 0x6#4),
  (false, 0x715C#16, 0x9368#16, 0xFFFF#16, .subBToAddr16 0x9368#16 0xC#4),
  (false, 0x71D6#16, 0xDCAE#16, 0x6ADA#16, .subBToAddr32 0xDCAE6ADA#32 0x6#4),
  (false, 0x797D#16, 0xB637#16, 0xFFFF#16, .subBToInd 0xD#4 0x1637#13 0x7#4),
  (false, 0xAB91#16, 0x41E7#16, 0x79CF#16, .subMemImm32 0x1#4 0x41E779CF#32),
  (false, 0xAD17#16, 0x9CB9#16, 0xFFFF#16, .subMemSimm16 0x7#4 0x9CB9#16),
  (false, 0xAB1B#16, 0x14B8#16, 0xFFFF#16, .subWMemImm16 0xB#4 0x14B8#16),
  (false, 0xAD95#16, 0x89B0#16, 0xFFFF#16, .subBMemImm8 0x5#4 0xB0#8),
  (false, 0xAAA4#16, 0x3DA5#16, 0x8B50#16, .andImm32 0x4#4 0x3DA58B50#32),
  (false, 0xAA2D#16, 0x3EC1#16, 0xFFFF#16, .andUimm16 0xD#4 0x3EC1#16),
  (false, 0xA20A#16, 0xFFFF#16, 0xFFFF#16, .andReg 0xA#4 0x0#4),
  (false, 0x7241#16, 0x72D1#16, 0xFFFF#16, .andAddr16 0x1#4 0x72D1#16),
  (false, 0x72CF#16, 0x2297#16, 0x61EE#16, .andAddr32 0xF#4 0x229761EE#32),
  (false, 0x7AD3#16, 0x8D2E#16, 0xFFFF#16, .andInd 0x3#4 0xD#4 0xD2E#13),
  (false, 0x723F#16, 0x2188#16, 0xFFFF#16, .andSWAddr16 0xF#4 0x2188#16),
  (false, 0x72B6#16, 0x39D4#16, 0x72DD#16, .andSWAddr32 0x6#4 0x39D472DD#32),
  (false, 0x7AA3#16, 0x6AD0#16, 0xFFFF#16, .andSWInd 0x3#4 0xA#4 0xAD0#13),
  (false, 0x722C#16, 0xCE63#16, 0xFFFF#16, .andUWAddr16 0xC#4 0xCE63#16),
  (false, 0x72A9#16, 0xDBD2#16, 0x2C1B#16, .andUWAddr32 0x9#4 0xDBD22C1B#32),
  (false, 0x7A73#16, 0x55A1#16, 0xFFFF#16, .andUWInd 0x3#4 0x7#4 0x15A1#13),
  (false, 0x7212#16, 0x4D6D#16, 0xFFFF#16, .andSBAddr16 0x2#4 0x4D6D#16),
  (false, 0x729C#16, 0xEE7E#16, 0x2354#16, .andSBAddr32 0xC#4 0xEE7E2354#32),
  (false, 0x7AD7#16, 0x3C67#16, 0xFFFF#16, .andSBInd 0x7#4 0xD#4 0x1C67#13),
  (false, 0x7205#16, 0xAE26#16, 0xFFFF#16, .andUBAddr16 0x5#4 0xAE26#16),
  (false, 0x7286#16, 0x34FF#16, 0x742B#16, .andUBAddr32 0x6#4 0x34FF742B#32),
  (false, 0x7A78#16, 0x1312#16, 0xFFFF#16, .andUBInd 0x8#4 0x7#4 0x1312#13)] = true := by decide
theorem test_decode_words_3 : decodesAll [
  (false, 0x7275#16, 0x0E39#16, 0xFFFF#16, .andToAddr16 0xE39#16 0x5#4),
  (false, 0x72F9#16, 0x5F78#16, 0x5DC0#16, .andToAddr32 0x5F785DC0#32 0x9#4),
  (false, 0x7A3D#16, 0xE368#16, 0xFFFF#16, .andToInd 0xD#4 0x368#13 0x3#4),
  (false, 0x7264#16, 0x7D42#16, 0xFFFF#16, .andWToAddr16 0x7D42#16 0x4#4),
  (false, 0x72E4#16, 0x9876#16, 0x06C2#16, .andWToAddr32 0x987606C2#32 0x4#4),
  (false, 0x7A6B#16, 0xCD53#16, 0xFFFF#16, .andWToInd 0xB#4 0xD53#13 0x6#4),
  (false, 0x7252#16, 0x3AA6#16, 0xFFFF#16, .andBToAddr16 0x3AA6#16 0x2#4),
  (false, 0x72D9#16, 0xD37B#16, 0x67CA#16, .andBToAddr32 0xD37B67CA#32 0x9#4),
  (false, 0x7A09#16, 0xBBE1#16, 0xFFFF#16, .andBToInd 0x9#4 0x1BE1#13 0x0#4),
  (false, 0xABA3#16, 0x7B55#16, 0x26CA#16, .andMemImm32 0x3#4 0x7B5526CA#32),
  (false, 0xAD2B#16, 0xA0F2#16, 0xFFFF#16, .andMemSimm16 0xB#4 0xA0F2#16),
  (false, 0xAB22#16, 0x5331#16, 0xFFFF#16, .andWMemImm16 0x2#4 0x5331#16),
  (false, 0xAD97#16, 0x221C#16, 0xFFFF#16, .andBMemImm8 0x7#4 0x1C#8),
  (false, 0xAABE#16, 0xF46D#16, 0x5CCB#16, .orImm32 0xE#4 0xF46D5CCB#32),
  (false, 0xAA3B#16, 0xE599#16, 0xFFFF#16, .orUimm16 0xB#4 0xE599#16),
  (false, 0xA3B3#16, 0xFFFF#16, 0xFFFF#16, .orReg 0x3#4 0xB#4),
  (false, 0x7342#16, 0x669B#16, 0xFFFF#16, .orAddr16 0x2#4 0x669B#16),
  (false, 0x73C3#16, 0x80FE#16, 0x8C17#16, .orAddr32 0x3#4 0x80FE8C17#32),
  (false, 0x7B4A#16, 0x8985#16, 0xFFFF#16, .orInd 0xA#4 0x4#4 0x985#13),
  (false, 0x7338#16, 0xEF03#16, 0xFFFF#16, .orSWAddr16 0x8#4 0xEF03#16),
  (false, 0x73B0#16, 0xB469#16, 0xA0B9#16, .orSWAddr32 0x0#4 0xB469A0B9#32),
  (false, 0x7BBC#16, 0x7C71#16, 0xFFFF#16, .orSWInd 0xC#4 0xB#4 0x1C71#13),
  (false, 0x7321#16, 0x0798#16, 0xFFFF#16, .orUWAddr16 0x1#4 0x798#16),
  (false, 0x73AD#16, 0xE53F#16, 0xF55F#16, .orUWAddr32 0xD#4 0xE53FF55F#32),
  (false, 0x7BFB#16, 0x51D0#16, 0xFFFF#16, .orUWInd 0xB#4 0xF#4 0x11D0#13),
  (false, 0x731B#16, 0x64E9#16, 0xFFFF#16, .orSBAddr16 0xB#4 0x64E9#16),
  (false, 0x7396#16, 0x4A82#16, 0xD236#16, .orSBAddr32 0x6#4 0x4A82D236#32),
  (false, 0x7B59#16, 0x3F88#16, 0xFFFF#16, .orSBInd 0x9#4 0x5#4 0x1F88#13),
  (false, 0x7302#16, 0xB7CF#16, 0xFFFF#16, .orUBAddr16 0x2#4 0xB7CF#16),
  (false, 0x7382#16, 0xBD53#16, 0x63C6#16, .orUBAddr32 0x2#4 0xBD5363C6#32),
  (false, 0x7B4C#16, 0x110C#16, 0xFFFF#16, .orUBInd 0xC#4 0x4#4 0x110C#13),
  (false, 0x7373#16, 0x40D3#16, 0xFFFF#16, .orToAddr16 0x40D3#16 0x3#4),
  (false, 0x73FB#16, 0x8245#16, 0x1651#16, .orToAddr32 0x82451651#32 0xB#4),
  (false, 0x7B7D#16, 0xE927#16, 0xFFFF#16, .orToInd 0xD#4 0x927#13 0x7#4),
  (false, 0x7365#16, 0x94FA#16, 0xFFFF#16, .orWToAddr16 0x94FA#16 0x5#4),
  (false, 0x73E0#16, 0xD412#16, 0x611A#16, .orWToAddr32 0xD412611A#32 0x0#4),
  (false, 0x7BDA#16, 0xC3FA#16, 0xFFFF#16, .orWToInd 0xA#4 0x3FA#13 0xD#4),
  (false, 0x7355#16, 0x8AC7#16, 0xFFFF#16, .orBToAddr16 0x8AC7#16 0x5#4),
  (false, 0x73D2#16, 0x8732#16, 0xFDA5#16, .orBToAddr32 0x8732FDA5#32 0x2#4),
  (false, 0x7B1A#16, 0xA5D2#16, 0xFFFF#16, .orBToInd 0xA#4 0x5D2#13 0x1#4)] = true := by decide
theorem test_decode_words_4 : decodesAll [
  (false, 0xABB9#16, 0x610A#16, 0x0C6E#16, .orMemImm32 0x9#4 0x610A0C6E#32),
  (false, 0xAD34#16, 0xA4D3#16, 0xFFFF#16, .orMemSimm16 0x4#4 0xA4D3#16),
  (false, 0xAB3F#16, 0x2DBA#16, 0xFFFF#16, .orWMemImm16 0xF#4 0x2DBA#16),
  (false, 0xAD97#16, 0xCBC6#16, 0xFFFF#16, .orBMemImm8 0x7#4 0xC6#8),
  (false, 0xAAC6#16, 0xAA89#16, 0x705A#16, .xorImm32 0x6#4 0xAA89705A#32),
  (false, 0xAA44#16, 0xA2B5#16, 0xFFFF#16, .xorUimm16 0x4#4 0xA2B5#16),
  (false, 0xA493#16, 0xFFFF#16, 0xFFFF#16, .xorReg 0x3#4 0x9#4),
  (false, 0x7444#16, 0x750B#16, 0xFFFF#16, .xorAddr16 0x4#4 0x750B#16),
  (false, 0x74C4#16, 0x50B3#16, 0x7AA3#16, .xorAddr32 0x4#4 0x50B37AA3#32),
  (false, 0x7C6F#16, 0x849D#16, 0xFFFF#16, .xorInd 0xF#4 0x6#4 0x49D#13),
  (false, 0x7433#16, 0xB5C8#16, 0xFFFF#16, .xorSWAddr16 0x3#4 0xB5C8#16),
  (false, 0x74BB#16, 0x6D31#16, 0x1D19#16, .xorSWAddr32 0xB#4 0x6D311D19#32),
  (false, 0x7C20#16, 0x6DB1#16, 0xFFFF#16, .xorSWInd 0x0#4 0x2#4 0xDB1#13),
  (false, 0x742A#16, 0xF310#16, 0xFFFF#16, .xorUWAddr16 0xA#4 0xF310#16),
  (false, 0x74A1#16, 0x260B#16, 0x7803#16, .xorUWAddr32 0x1#4 0x260B7803#32),
  (false, 0x7C2E#16, 0x4B9A#16, 0xFFFF#16, .xorUWInd 0xE#4 0x2#4 0xB9A#13),
  (false, 0x7410#16, 0xEC70#16, 0xFFFF#16, .xorSBAddr16 0x0#4 0xEC70#16),
  (false, 0x7498#16, 0x201C#16, 0x9303#16, .xorSBAddr32 0x8#4 0x201C9303#32),
  (false, 0x7CEB#16, 0x252C#16, 0xFFFF#16, .xorSBInd 0xB#4 0xE#4 0x52C#13),
  (false, 0x7402#16, 0xC03A#16, 0xFFFF#16, .xorUBAddr16 0x2#4 0xC03A#16),
  (false, 0x7485#16, 0x41C0#16, 0xB902#16, .xorUBAddr32 0x5#4 0x41C0B902#32),
  (false, 0x7C43#16, 0x0D59#16, 0xFFFF#16, .xorUBInd 0x3#4 0x4#4 0xD59#13),
  (false, 0x747B#16, 0xCC76#16, 0xFFFF#16, .xorToAddr16 0xCC76#16 0xB#4),
  (false, 0x74FD#16, 0xD492#16, 0x1A0F#16, .xorToAddr32 0xD4921A0F#32 0xD#4),
  (false, 0x7CC0#16, 0xE949#16, 0xFFFF#16, .xorToInd 0x0#4 0x949#13 0xC#4),
  (false, 0x7467#16, 0xD0E6#16, 0xFFFF#16, .xorWToAddr16 0xD0E6#16 0x7#4),
  (false, 0x74E8#16, 0x4306#16, 0x25F3#16, .xorWToAddr32 0x430625F3#32 0x8#4),
  (false, 0x7CFB#16, 0xCB2E#16, 0xFFFF#16, .xorWToInd 0xB#4 0xB2E#13 0xF#4),
  (false, 0x7455#16, 0xCBC9#16, 0xFFFF#16, .xorBToAddr16 0xCBC9#16 0x5#4),
  (false, 0x74D0#16, 0xC2D7#16, 0x3CF9#16, .xorBToAddr32 0xC2D73CF9#32 0x0#4),
  (false, 0x7CDC#16, 0xB87E#16, 0xFFFF#16, .xorBToInd 0xC#4 0x187E#13 0xD#4),
  (false, 0xABC6#16, 0x1663#16, 0xDC94#16, .xorMemImm32 0x6#4 0x1663DC94#32),
  (false, 0xAD41#16, 0x6C4A#16, 0xFFFF#16, .xorMemSimm16 0x1#4 0x6C4A#16),
  (false, 0xAB48#16, 0xDDCD#16, 0xFFFF#16, .xorWMemImm16 0x8#4 0xDDCD#16),
  (false, 0xAD92#16, 0x4CF0#16, 0xFFFF#16, .xorBMemImm8 0x2#4 0xF0#8),
  (false, 0xAADD#16, 0x9938#16, 0x34DE#16, .cpImm32 0xD#4 0x993834DE#32),
  (false, 0xAA53#16, 0x47FC#16, 0xFFFF#16, .cpUimm16 0x3#4 0x47FC#16),
  (false, 0xA5C8#16, 0xFFFF#16, 0xFFFF#16, .cpReg 0x8#4 0xC#4),
  (false, 0x7542#16, 0xC74E#16, 0xFFFF#16, .cpAddr16 0x2#4 0xC74E#16),
  (false, 0x75CF#16, 0xEC85#16, 0x921B#16, .cpAddr32 0xF#4 0xEC85921B#32)] = true := by decide
theorem test_decode_words_5 : decodesAll [
  (false, 0x7D76#16, 0x969D#16, 0xFFFF#16, .cpInd 0x6#4 0x7#4 0x169D#13),
  (false, 0x753C#16, 0x4E4C#16, 0xFFFF#16, .cpSWAddr16 0xC#4 0x4E4C#16),
  (false, 0x75BD#16, 0xF60A#16, 0x7D1D#16, .cpSWAddr32 0xD#4 0xF60A7D1D#32),
  (false, 0x7D9E#16, 0x6C00#16, 0xFFFF#16, .cpSWInd 0xE#4 0x9#4 0xC00#13),
  (false, 0x7522#16, 0xE916#16, 0xFFFF#16, .cpUWAddr16 0x2#4 0xE916#16),
  (false, 0x75A5#16, 0x7DF8#16, 0x1182#16, .cpUWAddr32 0x5#4 0x7DF81182#32),
  (false, 0x7D15#16, 0x4861#16, 0xFFFF#16, .cpUWInd 0x5#4 0x1#4 0x861#13),
  (false, 0x7510#16, 0x4BC8#16, 0xFFFF#16, .cpSBAddr16 0x0#4 0x4BC8#16),
  (false, 0x7598#16, 0x0B21#16, 0xC543#16, .cpSBAddr32 0x8#4 0xB21C543#32),
  (false, 0x7DAB#16, 0x31FA#16, 0xFFFF#16, .cpSBInd 0xB#4 0xA#4 0x11FA#13),
  (false, 0x750E#16, 0x9417#16, 0xFFFF#16, .cpUBAddr16 0xE#4 0x9417#16),
  (false, 0x7584#16, 0x2C74#16, 0xB9A5#16, .cpUBAddr32 0x4#4 0x2C74B9A5#32),
  (false, 0x7D3F#16, 0x083F#16, 0xFFFF#16, .cpUBInd 0xF#4 0x3#4 0x83F#13),
  (false, 0x757A#16, 0xE53C#16, 0xFFFF#16, .cpToAddr16 0xE53C#16 0xA#4),
  (false, 0x75FE#16, 0x39E8#16, 0x6C16#16, .cpToAddr32 0x39E86C16#32 0xE#4),
  (false, 0x7DD6#16, 0xEF27#16, 0xFFFF#16, .cpToInd 0x6#4 0xF27#13 0xD#4),
  (false, 0x7565#16, 0x9804#16, 0xFFFF#16, .cpWToAddr16 0x9804#16 0x5#4),
  (false, 0x75E5#16, 0x8BEA#16, 0xABE5#16, .cpWToAddr32 0x8BEAABE5#32 0x5#4),
  (false, 0x7DFB#16, 0xD859#16, 0xFFFF#16, .cpWToInd 0xB#4 0x1859#13 0xF#4),
  (false, 0x7557#16, 0xB022#16, 0xFFFF#16, .cpBToAddr16 0xB022#16 0x7#4),
  (false, 0x75DE#16, 0xE86A#16, 0x4B78#16, .cpBToAddr32 0xE86A4B78#32 0xE#4),
  (false, 0x7DD6#16, 0xAFA1#16, 0xFFFF#16, .cpBToInd 0x6#4 0xFA1#13 0xD#4),
  (false, 0xABDB#16, 0x8B85#16, 0xA815#16, .cpMemImm32 0xB#4 0x8B85A815#32),
  (false, 0xAD53#16, 0xEDAD#16, 0xFFFF#16, .cpMemSimm16 0x3#4 0xEDAD#16),
  (false, 0xAB53#16, 0x5A5E#16, 0xFFFF#16, .cpWMemImm16 0x3#4 0x5A5E#16),
  (false, 0xAD93#16, 0x2D6E#16, 0xFFFF#16, .cpBMemImm8 0x3#4 0x6E#8),
  (false, 0xAAE3#16, 0x8A70#16, 0x3DE0#16, .tmImm32 0x3#4 0x8A703DE0#32),
  (false, 0xAA67#16, 0x7E61#16, 0xFFFF#16, .tmUimm16 0x7#4 0x7E61#16),
  (false, 0xA6D2#16, 0xFFFF#16, 0xFFFF#16, .tmReg 0x2#4 0xD#4),
  (false, 0x764E#16, 0x1D25#16, 0xFFFF#16, .tmAddr16 0xE#4 0x1D25#16),
  (false, 0x76C9#16, 0x8C7C#16, 0xF4B4#16, .tmAddr32 0x9#4 0x8C7CF4B4#32),
  (false, 0x7E90#16, 0x8D51#16, 0xFFFF#16, .tmInd 0x0#4 0x9#4 0xD51#13),
  (false, 0x7635#16, 0x4E3B#16, 0xFFFF#16, .tmSWAddr16 0x5#4 0x4E3B#16),
  (false, 0x76B6#16, 0x2426#16, 0xBBC6#16, .tmSWAddr32 0x6#4 0x2426BBC6#32),
  (false, 0x7E3E#16, 0x638A#16, 0xFFFF#16, .tmSWInd 0xE#4 0x3#4 0x38A#13),
  (false, 0x762E#16, 0xB201#16, 0xFFFF#16, .tmUWAddr16 0xE#4 0xB201#16),
  (false, 0x76A2#16, 0x9C8A#16, 0x15BD#16, .tmUWAddr32 0x2#4 0x9C8A15BD#32),
  (false, 0x7EED#16, 0x4DF0#16, 0xFFFF#16, .tmUWInd 0xD#4 0xE#4 0xDF0#13),
  (false, 0x7615#16, 0x022E#16, 0xFFFF#16, .tmSBAddr16 0x5#4 0x22E#16),
  (false, 0x7698#16, 0x0894#16, 0xC0F4#16, .tmSBAddr32 0x8#4 0x894C0F4#32)] = true := by decide
theorem test_decode_words_6 : decodesAll [
  (false, 0x7E4E#16, 0x27E4#16, 0xFFFF#16, .tmSBInd 0xE#4 0x4#4 0x7E4#13),
  (false, 0x7603#16, 0xC7B6#16, 0xFFFF#16, .tmUBAddr16 0x3#4 0xC7B6#16),
  (false, 0x7680#16, 0x45D7#16, 0xAD1F#16, .tmUBAddr32 0x0#4 0x45D7AD1F#32),
  (false, 0x7E98#16, 0x1F00#16, 0xFFFF#16, .tmUBInd 0x8#4 0x9#4 0x1F00#13),
  (false, 0x767F#16, 0x8D7D#16, 0xFFFF#16, .tmToAddr16 0x8D7D#16 0xF#4),
  (false, 0x76FA#16, 0xAB4A#16, 0x65E3#16, .tmToAddr32 0xAB4A65E3#32 0xA#4),
  (false, 0x7E19#16, 0xF189#16, 0xFFFF#16, .tmToInd 0x9#4 0x1189#13 0x1#4),
  (false, 0x7666#16, 0x508E#16, 0xFFFF#16, .tmWToAddr16 0x508E#16 0x6#4),
  (false, 0x76E0#16, 0x5287#16, 0xB59C#16, .tmWToAddr32 0x5287B59C#32 0x0#4),
  (false, 0x7E20#16, 0xCFBE#16, 0xFFFF#16, .tmWToInd 0x0#4 0xFBE#13 0x2#4),
  (false, 0x765E#16, 0x4197#16, 0xFFFF#16, .tmBToAddr16 0x4197#16 0xE#4),
  (false, 0x76D4#16, 0xF867#16, 0x6CB7#16, .tmBToAddr32 0xF8676CB7#32 0x4#4),
  (false, 0x7E02#16, 0xB571#16, 0xFFFF#16, .tmBToInd 0x2#4 0x1571#13 0x0#4),
  (false, 0xABE6#16, 0x2815#16, 0xEBE4#16, .tmMemImm32 0x6#4 0x2815EBE4#32),
  (false, 0xAD63#16, 0x28CF#16, 0xFFFF#16, .tmMemSimm16 0x3#4 0x28CF#16),
  (false, 0xAB69#16, 0x4CBD#16, 0xFFFF#16, .tmWMemImm16 0x9#4 0x4CBD#16),
  (false, 0xAD9C#16, 0x4EC3#16, 0xFFFF#16, .tmBMemImm8 0xC#4 0xC3#8),
  (false, 0xAAF7#16, 0x48E7#16, 0x9C87#16, .tcmImm32 0x7#4 0x48E79C87#32),
  (false, 0xAA71#16, 0x5378#16, 0xFFFF#16, .tcmUimm16 0x1#4 0x5378#16),
  (false, 0xA762#16, 0xFFFF#16, 0xFFFF#16, .tcmReg 0x2#4 0x6#4),
  (false, 0x7748#16, 0xDFBE#16, 0xFFFF#16, .tcmAddr16 0x8#4 0xDFBE#16),
  (false, 0x77C0#16, 0x6F9D#16, 0x9F49#16, .tcmAddr32 0x0#4 0x6F9D9F49#32),
  (false, 0x7FBE#16, 0x8D0E#16, 0xFFFF#16, .tcmInd 0xE#4 0xB#4 0xD0E#13),
  (false, 0x7730#16, 0x6304#16, 0xFFFF#16, .tcmSWAddr16 0x0#4 0x6304#16),
  (false, 0x77B7#16, 0xFBC5#16, 0x831F#16, .tcmSWAddr32 0x7#4 0xFBC5831F#32),
  (false, 0x7F3A#16, 0x7FF3#16, 0xFFFF#16, .tcmSWInd 0xA#4 0x3#4 0x1FF3#13),
  (false, 0x7726#16, 0x87E3#16, 0xFFFF#16, .tcmUWAddr16 0x6#4 0x87E3#16),
  (false, 0x77AA#16, 0xB3A0#16, 0xF03B#16, .tcmUWAddr32 0xA#4 0xB3A0F03B#32),
  (false, 0x7F44#16, 0x475E#16, 0xFFFF#16, .tcmUWInd 0x4#4 0x4#4 0x75E#13),
  (false, 0x7712#16, 0x0725#16, 0xFFFF#16, .tcmSBAddr16 0x2#4 0x725#16),
  (false, 0x7793#16, 0x6893#16, 0xC644#16, .tcmSBAddr32 0x3#4 0x6893C644#32),
  (false, 0x7FF9#16, 0x30A2#16, 0xFFFF#16, .tcmSBInd 0x9#4 0xF#4 0x10A2#13),
  (false, 0x770C#16, 0x25C5#16, 0xFFFF#16, .tcmUBAddr16 0xC#4 0x25C5#16),
  (false, 0x7780#16, 0x099D#16, 0x8BEA#16, .tcmUBAddr32 0x0#4 0x99D8BEA#32),
  (false, 0x7F91#16, 0x0BE5#16, 0xFFFF#16, .tcmUBInd 0x1#4 0x9#4 0xBE5#13),
  (false, 0x7774#16, 0x37FC#16, 0xFFFF#16, .tcmToAddr16 0x37FC#16 0x4#4),
  (false, 0x77F5#16, 0xAF99#16, 0xA82B#16, .tcmToAddr32 0xAF99A82B#32 0x5#4),
  (false, 0x7F48#16, 0xEDC6#16, 0xFFFF#16, .tcmToInd 0x8#4 0xDC6#13 0x4#4),
  (false, 0x7764#16, 0x5A51#16, 0xFFFF#16, .tcmWToAddr16 0x5A51#16 0x4#4),
  (false, 0x77E4#16, 0x4251#16, 0x8DDE#16, .tcmWToAddr32 0x42518DDE#32 0x4#4)] = true := by decide
theorem test_decode_words_7 : decodesAll [
  (false, 0x7F0D#16, 0xD8CE#16, 0xFFFF#16, .tcmWToInd 0xD#4 0x18CE#13 0x0#4),
  (false, 0x7753#16, 0xB483#16, 0xFFFF#16, .tcmBToAddr16 0xB483#16 0x3#4),
  (false, 0x77D1#16, 0xF351#16, 0x4E6E#16, .tcmBToAddr32 0xF3514E6E#32 0x1#4),
  (false, 0x7FD5#16, 0xA9A4#16, 0xFFFF#16, .tcmBToInd 0x5#4 0x9A4#13 0xD#4),
  (false, 0xABF3#16, 0x8873#16, 0xDCDA#16, .tcmMemImm32 0x3#4 0x8873DCDA#32),
  (false, 0xAD7A#16, 0x6B88#16, 0xFFFF#16, .tcmMemSimm16 0xA#4 0x6B88#16),
  (false, 0xAB7D#16, 0xA5D6#16, 0xFFFF#16, .tcmWMemImm16 0xD#4 0xA5D6#16),
  (false, 0xAD9F#16, 0x175F#16, 0xFFFF#16, .tcmBMemImm8 0xF#4 0x5F#8),
  (false, 0x2BCE#16, 0xFFFF#16, 0xFFFF#16, .addReg3 0xB#4 0xC#4 0xE#4),
  (false, 0x84B1#16, 0xFFFF#16, 0xFFFF#16, .addSimm8 0x4#4 0xB1#8),
  (false, 0x98DD#16, 0xFFFF#16, 0xFFFF#16, .cpSimm8 0x8#4 0xDD#8),
  (false, 0xADAC#16, 0x85AC#16, 0xFFFF#16, .clrAddr16 0x85AC#16),
  (false, 0xADB8#16, 0xDC7C#16, 0xE42A#16, .clrAddr32 0xDC7CE42A#32),
  (false, 0xACC8#16, 0xFFFF#16, 0xFFFF#16, .clrMem 0x8#4),
  (false, 0xADC7#16, 0xA1E1#16, 0xFFFF#16, .clrInd 0x7#4 0x21E1#14),
  (false, 0xADA4#16, 0x55C3#16, 0xFFFF#16, .clrWAddr16 0x55C3#16),
  (false, 0xADB4#16, 0xEAEA#16, 0xD67E#16, .clrWAddr32 0xEAEAD67E#32),
  (false, 0xAC4A#16, 0xFFFF#16, 0xFFFF#16, .clrWMem 0xA#4),
  (false, 0xADCB#16, 0x4A01#16, 0xFFFF#16, .clrWInd 0xB#4 0xA01#14),
  (false, 0xADA0#16, 0xF3DA#16, 0xFFFF#16, .clrBAddr16 0xF3DA#16),
  (false, 0xADB0#16, 0x6D04#16, 0xF4A3#16, .clrBAddr32 0x6D04F4A3#32),
  (false, 0xAC05#16, 0xFFFF#16, 0xFFFF#16, .clrBMem 0x5#4),
  (false, 0xADC0#16, 0x3015#16, 0xFFFF#16, .clrBInd 0x0#4 0x3015#14),
  (false, 0xADA9#16, 0x02DC#16, 0xFFFF#16, .cpzAddr16 0x2DC#16),
  (false, 0xADBD#16, 0x700D#16, 0xEB47#16, .cpzAddr32 0x700DEB47#32),
  (false, 0xACD2#16, 0xFFFF#16, 0xFFFF#16, .cpzMem 0x2#4),
  (false, 0xADD7#16, 0xFBB7#16, 0xFFFF#16, .cpzInd 0x7#4 0x3BB7#14),
  (false, 0xADA5#16, 0x9AF1#16, 0xFFFF#16, .cpzWAddr16 0x9AF1#16),
  (false, 0xADB5#16, 0x6865#16, 0x6F85#16, .cpzWAddr32 0x68656F85#32),
  (false, 0xAC5F#16, 0xFFFF#16, 0xFFFF#16, .cpzWMem 0xF#4),
  (false, 0xADDA#16, 0x70A2#16, 0xFFFF#16, .cpzWInd 0xA#4 0x30A2#14),
  (false, 0xADA1#16, 0xE11A#16, 0xFFFF#16, .cpzBAddr16 0xE11A#16),
  (false, 0xADB1#16, 0xC919#16, 0xEB11#16, .cpzBAddr32 0xC919EB11#32),
  (false, 0xAC17#16, 0xFFFF#16, 0xFFFF#16, .cpzBMem 0x7#4),
  (false, 0xADD7#16, 0x176C#16, 0xFFFF#16, .cpzBInd 0x7#4 0x176C#14),
  (false, 0xADAA#16, 0x9318#16, 0xFFFF#16, .incAddr16 0x9318#16),
  (false, 0xADBA#16, 0x896C#16, 0xF7D8#16, .incAddr32 0x896CF7D8#32),
  (false, 0xACE5#16, 0xFFFF#16, 0xFFFF#16, .incMem 0x5#4),
  (false, 0xADE5#16, 0xE2D0#16, 0xFFFF#16, .incInd 0x5#4 0x22D0#14),
  (false, 0xADA6#16, 0xC6B4#16, 0xFFFF#16, .incWAddr16 0xC6B4#16)] = true := by decide
theorem test_decode_words_8 : decodesAll [
  (false, 0xADB6#16, 0x7F05#16, 0x50F6#16, .incWAddr32 0x7F0550F6#32),
  (false, 0xAC64#16, 0xFFFF#16, 0xFFFF#16, .incWMem 0x4#4),
  (false, 0xADE0#16, 0x7F43#16, 0xFFFF#16, .incWInd 0x0#4 0x3F43#14),
  (false, 0xADA2#16, 0x461F#16, 0xFFFF#16, .incBAddr16 0x461F#16),
  (false, 0xADB2#16, 0x424E#16, 0x2D17#16, .incBAddr32 0x424E2D17#32),
  (false, 0xAC26#16, 0xFFFF#16, 0xFFFF#16, .incBMem 0x6#4),
  (false, 0xADE4#16, 0x1EBA#16, 0xFFFF#16, .incBInd 0x4#4 0x1EBA#14),
  (false, 0xADAB#16, 0x29F2#16, 0xFFFF#16, .decAddr16 0x29F2#16),
  (false, 0xADBF#16, 0x15AF#16, 0xE95B#16, .decAddr32 0x15AFE95B#32),
  (false, 0xACF2#16, 0xFFFF#16, 0xFFFF#16, .decMem 0x2#4),
  (false, 0xADF7#16, 0xDD1D#16, 0xFFFF#16, .decInd 0x7#4 0x1D1D#14),
  (false, 0xADA7#16, 0x87A0#16, 0xFFFF#16, .decWAddr16 0x87A0#16),
  (false, 0xADB7#16, 0x2AD1#16, 0x9207#16, .decWAddr32 0x2AD19207#32),
  (false, 0xAC7A#16, 0xFFFF#16, 0xFFFF#16, .decWMem 0xA#4),
  (false, 0xADF4#16, 0x4895#16, 0xFFFF#16, .decWInd 0x4#4 0x895#14),
  (false, 0xADA3#16, 0x300F#16, 0xFFFF#16, .decBAddr16 0x300F#16),
  (false, 0xADB3#16, 0xE48B#16, 0xFA15#16, .decBAddr32 0xE48BFA15#32),
  (false, 0xAC32#16, 0xFFFF#16, 0xFFFF#16, .decBMem 0x2#4),
  (false, 0xADFC#16, 0x3DEF#16, 0xFFFF#16, .decBInd 0xC#4 0x3DEF#14),
  (false, 0x0024#16, 0x5569#16, 0xFFFF#16, .ldPc 0x4#4 0x1569#14),
  (false, 0x0348#16, 0xEC98#16, 0xFFFF#16, .ldAddr16 0x8#4 0xEC98#16),
  (false, 0x03C4#16, 0x0A3B#16, 0x40DC#16, .ldAddr32 0x4#4 0xA3B40DC#32),
  (false, 0x1245#16, 0xFFFF#16, 0xFFFF#16, .ldMem 0x5#4 0x4#4),
  (false, 0x132D#16, 0xFFFF#16, 0xFFFF#16, .ldPostInc 0xD#4 0x2#4),
  (false, 0x4888#16, 0x12D0#16, 0xFFFF#16, .ldInd 0x8#4 0x8#4 0x12D0#14),
  (false, 0x5FCC#16, 0xFFFF#16, 0xFFFF#16, .ldFp 0xC#4 0x3C#6),
  (false, 0x0035#16, 0x0F44#16, 0xFFFF#16, .ldUBPc 0x5#4 0xF44#14),
  (false, 0x0307#16, 0x7D0D#16, 0xFFFF#16, .ldUBAddr16 0x7#4 0x7D0D#16),
  (false, 0x0383#16, 0xF22B#16, 0x9E05#16, .ldUBAddr32 0x3#4 0xF22B9E05#32),
  (false, 0x1813#16, 0xFFFF#16, 0xFFFF#16, .ldUBMem 0x3#4 0x1#4),
  (false, 0x1980#16, 0xFFFF#16, 0xFFFF#16, .ldUBPostInc 0x0#4 0x8#4),
  (false, 0x49F4#16, 0x3076#16, 0xFFFF#16, .ldUBInd 0x4#4 0xF#4 0x3076#14),
  (false, 0x61E1#16, 0xFFFF#16, 0xFFFF#16, .ldUBFp 0x1#4 0x1E#6),
  (false, 0x0039#16, 0x7D47#16, 0xFFFF#16, .ldUWPc 0x9#4 0x3D47#14),
  (false, 0x032B#16, 0x057F#16, 0xFFFF#16, .ldUWAddr16 0xB#4 0x57F#16),
  (false, 0x03A2#16, 0xD040#16, 0x89E3#16, .ldUWAddr32 0x2#4 0xD04089E3#32),
  (false, 0x1AE8#16, 0xFFFF#16, 0xFFFF#16, .ldUWMem 0x8#4 0xE#4),
  (false, 0x1BDD#16, 0xFFFF#16, 0xFFFF#16, .ldUWPostInc 0xD#4 0xD#4),
  (false, 0x4922#16, 0x4432#16, 0xFFFF#16, .ldUWInd 0x2#4 0x2#4 0x432#14),
  (false, 0x6493#16, 0xFFFF#16, 0xFFFF#16, .ldUWFp 0x3#4 0x9#6)] = true := by decide
theorem test_decode_words_9 : decodesAll [
  (false, 0x0035#16, 0xA05B#16, 0xFFFF#16, .ldSBPc 0x5#4 0x205B#14),
  (false, 0x0319#16, 0x1B2E#16, 0xFFFF#16, .ldSBAddr16 0x9#4 0x1B2E#16),
  (false, 0x039D#16, 0xB8CB#16, 0xECE9#16, .ldSBAddr32 0xD#4 0xB8CBECE9#32),
  (false, 0x1C07#16, 0xFFFF#16, 0xFFFF#16, .ldSBMem 0x7#4 0x0#4),
  (false, 0x1DBA#16, 0xFFFF#16, 0xFFFF#16, .ldSBPostInc 0xA#4 0xB#4),
  (false, 0x4941#16, 0xA8A7#16, 0xFFFF#16, .ldSBInd 0x1#4 0x4#4 0x28A7#14),
  (false, 0x6974#16, 0xFFFF#16, 0xFFFF#16, .ldSBFp 0x4#4 0x17#6),
  (false, 0x0039#16, 0xEA6F#16, 0xFFFF#16, .ldSWPc 0x9#4 0x2A6F#14),
  (false, 0x0331#16, 0x5610#16, 0xFFFF#16, .ldSWAddr16 0x1#4 0x5610#16),
  (false, 0x03BE#16, 0x5421#16, 0xE872#16, .ldSWAddr32 0xE#4 0x5421E872#32),
  (false, 0x1EAE#16, 0xFFFF#16, 0xFFFF#16, .ldSWMem 0xE#4 0xA#4),
  (false, 0x1FBD#16, 0xFFFF#16, 0xFFFF#16, .ldSWPostInc 0xD#4 0xB#4),
  (false, 0x498C#16, 0xC6D2#16, 0xFFFF#16, .ldSWInd 0xC#4 0x8#4 0x6D2#14),
  (false, 0x6E2C#16, 0xFFFF#16, 0xFFFF#16, .ldSWFp 0xC#4 0x22#6),
  (false, 0x037D#16, 0xEE4C#16, 0xFFFF#16, .ldToAddr16 0xEE4C#16 0xD#4),
  (false, 0x03F3#16, 0xEDBE#16, 0x560F#16, .ldToAddr32 0xEDBE560F#32 0x3#4),
  (false, 0x0B6C#16, 0xFFFF#16, 0xFFFF#16, .ldToMem 0xC#4 0x6#4),
  (false, 0x1030#16, 0xFFFF#16, 0xFFFF#16, .ldToPre 0x0#4 0x3#4),
  (false, 0x117E#16, 0xFFFF#16, 0xFFFF#16, .ldToPost 0xE#4 0x7#4),
  (false, 0x4A26#16, 0x55F9#16, 0xFFFF#16, .ldToInd 0x6#4 0x15F9#14 0x2#4),
  (false, 0x5913#16, 0xFFFF#16, 0xFFFF#16, .ldToFp 0x11#6 0x3#4),
  (false, 0x0362#16, 0xCB5A#16, 0xFFFF#16, .ldWToAddr16 0xCB5A#16 0x2#4),
  (false, 0x03E6#16, 0x13B5#16, 0x9B5A#16, .ldWToAddr32 0x13B59B5A#32 0x6#4),
  (false, 0x0FF9#16, 0xFFFF#16, 0xFFFF#16, .ldWToMem 0x9#4 0xF#4),
  (false, 0x16C1#16, 0xFFFF#16, 0xFFFF#16, .ldWToPre 0x1#4 0xC#4),
  (false, 0x175B#16, 0xFFFF#16, 0xFFFF#16, .ldWToPost 0xB#4 0x5#4),
  (false, 0x4B89#16, 0x5E6F#16, 0xFFFF#16, .ldWToInd 0x9#4 0x1E6F#14 0x8#4),
  (false, 0x56B1#16, 0xFFFF#16, 0xFFFF#16, .ldWToFp 0x2B#6 0x1#4),
  (false, 0x035F#16, 0xC115#16, 0xFFFF#16, .ldBToAddr16 0xC115#16 0xF#4),
  (false, 0x03DD#16, 0x8139#16, 0xA167#16, .ldBToAddr32 0x8139A167#32 0xD#4),
  (false, 0x0E28#16, 0xFFFF#16, 0xFFFF#16, .ldBToMem 0x8#4 0x2#4),
  (false, 0x1402#16, 0xFFFF#16, 0xFFFF#16, .ldBToPre 0x2#4 0x0#4),
  (false, 0x15CC#16, 0xFFFF#16, 0xFFFF#16, .ldBToPost 0xC#4 0xC#4),
  (false, 0x4BBF#16, 0x18ED#16, 0xFFFF#16, .ldBToInd 0xF#4 0x18ED#14 0xB#4),
  (false, 0x5006#16, 0xFFFF#16, 0xFFFF#16, .ldBToFp 0x0#6 0x6#4),
  (false, 0x09D7#16, 0x54F9#16, 0xE86A#16, .ldMemImm32 0x7#4 0x54F9E86A#32),
  (false, 0x09EE#16, 0x43F8#16, 0x7A45#16, .ldPreImm32 0xE#4 0x43F87A45#32),
  (false, 0x09F7#16, 0x005C#16, 0xA3FB#16, .ldPostImm32 0x7#4 0x5CA3FB#32),
  (false, 0x0976#16, 0x3283#16, 0xFFFF#16, .ldMemSimm16 0x6#4 0x3283#16),
  (false, 0x0996#16, 0x706B#16, 0xFFFF#16, .ldPreSimm16 0x6#4 0x706B#16)] = true := by decide
theorem test_decode_words_10 : decodesAll [
  (false, 0x09B1#16, 0xF372#16, 0xFFFF#16, .ldPostSimm16 0x1#4 0xF372#16),
  (false, 0x096B#16, 0xB3C8#16, 0xFFFF#16, .ldWMemImm16 0xB#4 0xB3C8#16),
  (false, 0x098E#16, 0x30A1#16, 0xFFFF#16, .ldWPreImm16 0xE#4 0x30A1#16),
  (false, 0x09A1#16, 0x9BD7#16, 0xFFFF#16, .ldWPostImm16 0x1#4 0x9BD7#16),
  (false, 0x09C3#16, 0x9DBD#16, 0xFFFF#16, .ldBMemImm8 0x3#4 0xBD#8),
  (false, 0x0941#16, 0x81A9#16, 0xFFFF#16, .ldBPreImm8 0x1#4 0xA9#8),
  (false, 0x0958#16, 0x2B22#16, 0xFFFF#16, .ldBPostImm8 0x8#4 0x22#8),
  (false, 0x38DB#16, 0xFFFF#16, 0xFFFF#16, .ldSimm8 0x8#4 0xDB#8),
  (false, 0x4516#16, 0xA1C8#16, 0xFFFF#16, .ldSimm17 0x6#4 0x1A1C8#17),
  (false, 0x452A#16, 0x7026#16, 0x7254#16, .ldImm32 0xA#4 0x70267254#32),
  (false, 0x4428#16, 0xFFFF#16, 0xFFFF#16, .ldReg 0x8#4 0x2#4),
  (false, 0x0185#16, 0xFFFF#16, 0xFFFF#16, .ldCc 0x8#4 0x5#4),
  (false, 0x453E#16, 0xFFFF#16, 0xFFFF#16, .ldes 0xE#4),
  (false, 0x0022#16, 0x89FA#16, 0xFFFF#16, .leaPc 0x2#4 0x9FA#14),
  (false, 0x488E#16, 0x83CA#16, 0xFFFF#16, .leaInd 0xE#4 0x8#4 0x3CA#14),
  (false, 0x4E77#16, 0xFFFF#16, 0xFFFF#16, .leaFp 0x7#4 0x27#6),
  (false, 0x40BD#16, 0xFFFF#16, 0xFFFF#16, .extUB 0xD#4 0xB#4),
  (false, 0x4173#16, 0xFFFF#16, 0xFFFF#16, .extUW 0x3#4 0x7#4),
  (false, 0x422E#16, 0xFFFF#16, 0xFFFF#16, .extSB 0xE#4 0x2#4),
  (false, 0x43F5#16, 0xFFFF#16, 0xFFFF#16, .extSW 0x5#4 0xF#4),
  (false, 0x4545#16, 0xFFFF#16, 0xFFFF#16, .com 0x5#4),
  (false, 0x4552#16, 0xFFFF#16, 0xFFFF#16, .neg 0x2#4),
  (false, 0x0A25#16, 0xFFFF#16, 0xFFFF#16, .pushBImm8 0x25#8),
  (false, 0x0CBC#16, 0xFFFF#16, 0xFFFF#16, .pushWSimm8 0xBC#8),
  (false, 0x0D3C#16, 0xFFFF#16, 0xFFFF#16, .pushSimm8 0x3C#8),
  (false, 0x13F3#16, 0xFFFF#16, 0xFFFF#16, .pop 0x3#4),
  (false, 0x19FA#16, 0xFFFF#16, 0xFFFF#16, .popUB 0xA#4),
  (false, 0x1BFD#16, 0xFFFF#16, 0xFFFF#16, .popUW 0xD#4),
  (false, 0x1DF7#16, 0xFFFF#16, 0xFFFF#16, .popSB 0x7#4),
  (false, 0x1FF0#16, 0xFFFF#16, 0xFFFF#16, .popSW 0x0#4),
  (false, 0x0463#16, 0xFFFF#16, 0xFFFF#16, .pushmLo 0x63#8),
  (false, 0x0527#16, 0xFFFF#16, 0xFFFF#16, .pushmHi 0x27#8),
  (false, 0x0656#16, 0xFFFF#16, 0xFFFF#16, .popmLo 0x56#8),
  (false, 0x076E#16, 0xFFFF#16, 0xFFFF#16, .popmHi 0x6E#8),
  (false, 0x0002#16, 0xFFFF#16, 0xFFFF#16, .pushf),
  (false, 0x0003#16, 0xFFFF#16, 0xFFFF#16, .popf),
  (false, 0x083D#16, 0xFFFF#16, 0xFFFF#16, .link 0x3D#8),
  (false, 0x0001#16, 0xFFFF#16, 0xFFFF#16, .unlink),
  (false, 0xAE48#16, 0xFFFF#16, 0xFFFF#16, .udiv 0x8#4 0x4#4),
  (false, 0xAF86#16, 0xFFFF#16, 0xFFFF#16, .sdiv 0x6#4 0x8#4)] = true := by decide
theorem test_decode_words_11 : decodesAll [
  (false, 0xB05E#16, 0xFFFF#16, 0xFFFF#16, .umul 0xE#4 0x5#4),
  (false, 0xB11E#16, 0xFFFF#16, 0xFFFF#16, .smul 0xE#4 0x1#4),
  (false, 0xB213#16, 0xFFFF#16, 0xFFFF#16, .mul 0x3#4 0x1#4),
  (false, 0xB473#16, 0xFFFF#16, 0xFFFF#16, .sraReg 0x3#4 0x7#4),
  (false, 0xB5C2#16, 0xFFFF#16, 0xFFFF#16, .srlReg 0x2#4 0xC#4),
  (false, 0xB6B4#16, 0xFFFF#16, 0xFFFF#16, .sllReg 0x4#4 0xB#4),
  (false, 0xB738#16, 0xFFFF#16, 0xFFFF#16, .rlReg 0x8#4 0x3#4),
  (false, 0xB92F#16, 0xFFFF#16, 0xFFFF#16, .sraImm 0xF#4 0x12#5),
  (false, 0xBB54#16, 0xFFFF#16, 0xFFFF#16, .srlImm 0x4#4 0x15#5),
  (false, 0xBC4C#16, 0xFFFF#16, 0xFFFF#16, .sllImm 0xC#4 0x4#5),
  (false, 0xBF41#16, 0xFFFF#16, 0xFFFF#16, .rlImm 0x1#4 0x14#5),
  (false, 0xC7D5#16, 0xFFFF#16, 0xFFFF#16, .jpRel12 0x7D5#12),
  (false, 0xF0E5#16, 0xA8D7#16, 0xFFFF#16, .jpRel24 0xE5A8D7#24),
  (false, 0xF209#16, 0xFFFF#16, 0xFFFF#16, .jpInd 0x9#4),
  (false, 0xE29A#16, 0xFFFF#16, 0xFFFF#16, .jpCcRel8 0x2#4 0x9A#8),
  (false, 0xF226#16, 0x0BD7#16, 0xFFFF#16, .jpCcRel16 0x6#4 0xBD7#16),
  (false, 0xF230#16, 0x2B43#16, 0x7F6A#16, .jpa 0x2B437F6A#32),
  (false, 0xD52F#16, 0xFFFF#16, 0xFFFF#16, .callRel12 0x52F#12),
  (false, 0xF190#16, 0xE9C9#16, 0xFFFF#16, .callRel24 0x90E9C9#24),
  (false, 0xF215#16, 0xFFFF#16, 0xFFFF#16, .callInd 0x5#4),
  (false, 0xF231#16, 0x9A18#16, 0x2AB8#16, .calla 0x9A182AB8#32),
  (false, 0xFD8C#16, 0xFFFF#16, 0xFFFF#16, .djnz 0xC#4 0x8#4),
  (false, 0xFE39#16, 0xFFFF#16, 0xFFFF#16, .trap 0x39#8),
  (false, 0xFFFF#16, 0xFFFF#16, 0xFFFF#16, .ill),
  (false, 0xFFFC#16, 0xFFFF#16, 0xFFFF#16, .ret),
  (false, 0xFFFD#16, 0xFFFF#16, 0xFFFF#16, .iret),
  (false, 0x0000#16, 0xFFFF#16, 0xFFFF#16, .brk),
  (false, 0x0004#16, 0xFFFF#16, 0xFFFF#16, .atm),
  (false, 0x0005#16, 0xFFFF#16, 0xFFFF#16, .noflags),
  (false, 0x0007#16, 0xFFFF#16, 0xFFFF#16, .extend),
  (false, 0xFFF7#16, 0xFFFF#16, 0xFFFF#16, .wdt),
  (false, 0xFFF8#16, 0xFFFF#16, 0xFFFF#16, .stop),
  (false, 0xFFF9#16, 0xFFFF#16, 0xFFFF#16, .halt),
  (false, 0xFFFA#16, 0xFFFF#16, 0xFFFF#16, .ei),
  (false, 0xFFFB#16, 0xFFFF#16, 0xFFFF#16, .di),
  (false, 0xFFFE#16, 0xFFFF#16, 0xFFFF#16, .nop),
  (true, 0x9600#16, 0xFFFF#16, 0xFFFF#16, .cpczReg 0x6#4)] = true := by decide

/-! ### The spec's vectors -/

/-- The reset state about to run these words at this address, with these registers, FLAGS and bytes in memory. -/
def start (pc : Quad) (ws : List Word) (f : Byte) (rs : List (Reg × Quad)) (m : List (Quad × List Byte)) : State :=
  { State.reset with
    pc := pc
    flags := f
    regs := rs.foldl (fun v x => v.set x.1.toNat x.2 x.1.isLt) State.reset.regs
    mem := m.foldl (fun u x => placeBytes Device.default x.1 x.2 u)
      (placeBytes Device.default pc (ws.flatMap wordBytes) []) }

/-- The same behind the Extend prefix. -/
def extended (s : State) : State := { s with extPending := true }

/-- The same behind the NOFLAGS prefix. -/
def noflags (s : State) : State := { s with noflagsPending := true }

/-- The bytes at an address. -/
def bytesAt (n : Nat) (a : Quad) (t : State) : List Byte := (bytesFrom n a).map fun b => byteAt b t

/-- The step answers a next state with this FLAGS and PC, these registers, and these bytes. -/
noncomputable def ends (s : State) (f : Byte) (pc : Quad) (rs : List (Reg × Quad)) (m : List (Quad × List Byte)) : Bool :=
  match step s with
  | .next t => t.flags == f && t.pc == pc && rs.all (fun x => t.reg x.1 == x.2)
      && m.all fun x => bytesAt x.2.length x.1 t == x.2
  | _ => false

/-- The step faults for this reason. -/
noncomputable def faults (s : State) (r : Fault) : Bool :=
  match step s with
  | .fault q => q == r
  | _ => false

/-- The step refuses for this reason. -/
noncomputable def refuses (s : State) (r : Refusal) : Bool :=
  match step s with
  | .refused q => q == r
  | _ => false

/-- S1. -/
theorem test_adc_adds_the_carry :
    ends (extended (start 0x00001000#32 [0xA0B3#16] 0x80#8 [(3#4, 0x00000016#32), (11#4, 0x00000020#32)] []))
      0x00#8 0x00001002#32 [(3#4, 0x00000037#32)] [] = true := by decide
/-- V3. -/
theorem test_add_overflows_and_carries :
    ends (start 0x00001000#32 [0xA010#16] 0x00#8 [(0#4, 0x80000000#32), (1#4, 0x80000000#32)] [])
      0xD0#8 0x00001002#32 [(0#4, 0x00000000#32), (1#4, 0x80000000#32)] [] = true := by decide
/-- S4. -/
theorem test_add_w_to_memory :
    ends (start 0x00001000#32 [0xAB03#16, 0x1055#16] 0x00#8 [(3#4, 0xFFFFB023#32)] [(0xFFFFB023#32, [0x70#8, 0x2E#8])])
      0x30#8 0x00001004#32 [(3#4, 0xFFFFB023#32)] [(0xFFFFB023#32, [0x80#8, 0x83#8])] = true := by decide
/-- S5. -/
theorem test_add_ub_extends_zero :
    ends (start 0x00001000#32 [0x78AC#16, 0x0000#16] 0xF8#8 [(12#4, 0x00000016#32), (10#4, 0xFFFFB020#32)]
      [(0xFFFFB020#32, [0x91#8])])
      0x00#8 0x00001004#32 [(12#4, 0x000000A7#32)] [] = true := by decide
/-- S6. -/
theorem test_add_sb_extends_sign :
    ends (start 0x00001000#32 [0x78AC#16, 0x2000#16] 0x00#8 [(12#4, 0x00000016#32), (10#4, 0xFFFFB020#32)]
      [(0xFFFFB020#32, [0x91#8])])
      0x20#8 0x00001004#32 [(12#4, 0xFFFFFFA7#32)] [] = true := by decide
/-- V14. -/
theorem test_add_w_blank_tests_low_half :
    ends (start 0x00001000#32 [0x7062#16, 0xB000#16] 0x00#8 [(2#4, 0x00010000#32)] [(0xFFFFB000#32, [0xFF#8, 0xFF#8])])
      0x28#8 0x00001004#32 [(2#4, 0x00010000#32)] [(0xFFFFB000#32, [0xFF#8, 0xFF#8])] = true := by decide
/-- V18. -/
theorem test_add_three_registers :
    ends (start 0x00001000#32 [0x2012#16] 0x00#8 [(0#4, 0xDEADBEEF#32), (1#4, 0xFFFFFFFF#32), (2#4, 0x00000002#32)] [])
      0x80#8 0x00001002#32 [(0#4, 0x00000001#32), (1#4, 0xFFFFFFFF#32), (2#4, 0x00000002#32)] [] = true := by decide
/-- V22. -/
theorem test_adc_zero_is_sticky :
    ends (extended (start 0x00001000#32 [0xA031#16] 0x80#8 [(1#4, 0xFFFFFFFF#32), (3#4, 0x00000000#32)] []))
      0x88#8 0x00001002#32 [(1#4, 0x00000000#32)] [] = true := by decide
/-- V9. -/
theorem test_add_simm8_is_signed :
    ends (start 0x00001000#32 [0x8280#16] 0x00#8 [(2#4, 0x80000000#32)] [])
      0x90#8 0x00001002#32 [(2#4, 0x7FFFFF80#32)] [] = true := by decide
/-- S9. -/
theorem test_and_sb_from_memory :
    ends (start 0x00001000#32 [0x7214#16, 0xB07B#16] 0x80#8 [(4#4, 0xFFFFFF79#32)] [(0xFFFFB07B#32, [0xEA#8])])
      0xA0#8 0x00001004#32 [(4#4, 0xFFFFFF68#32)] [] = true := by decide
/-- S11. -/
theorem test_and_w_to_memory :
    ends (start 0x00001000#32 [0xAB2D#16, 0x80F0#16] 0x10#8 [(13#4, 0xFFFFB07A#32)] [(0xFFFFB07A#32, [0xC3#8, 0xF7#8])])
      0x20#8 0x00001004#32 [] [(0xFFFFB07A#32, [0x80#8, 0xF0#8])] = true := by decide
/-- V98. -/
theorem test_and_b_immediate :
    ends (start 0x00001000#32 [0xAD91#16, 0x020F#16] 0x00#8 [(1#4, 0xFFFFB000#32)] [(0xFFFFB000#32, [0xF0#8])])
      0x40#8 0x00001004#32 [] [(0xFFFFB000#32, [0x00#8])] = true := by decide
/-- S17. -/
theorem test_call_register_clears_bit_0 :
    ends (start 0x00000472#32 [0xF217#16] 0x00#8 [(15#4, 0xFFFFDE24#32), (7#4, 0x00003521#32)] [])
      0x00#8 0x00003520#32 [(15#4, 0xFFFFDE20#32)] [(0xFFFFDE20#32, [0x00#8, 0x00#8, 0x04#8, 0x74#8])] = true := by
      decide
/-- S18. -/
theorem test_calla :
    ends (start 0x0000044E#32 [0xF231#16, 0x0035#16, 0x2920#16] 0x00#8 [(15#4, 0xFFFFDB22#32)] [])
      0x00#8 0x00352920#32 [(15#4, 0xFFFFDB1E#32)] [(0xFFFFDB1E#32, [0x00#8, 0x00#8, 0x04#8, 0x54#8])] = true := by
      decide
/-- V232. -/
theorem test_call_rel24 :
    ends (start 0x00002000#32 [0xF100#16, 0x0010#16] 0x00#8 [(15#4, 0xFFFFC000#32)] [])
      0x00#8 0x00002024#32 [(15#4, 0xFFFFBFFC#32)] [(0xFFFFBFFC#32, [0x00#8, 0x00#8, 0x20#8, 0x04#8])] = true := by
      decide
/-- S19. -/
theorem test_clr_quad :
    ends (start 0x00001000#32 [0xADA8#16, 0xB032#16] 0x80#8 [] [(0xFFFFB032#32, [0x8B#8, 0xF7#8, 0x47#8, 0xAF#8])])
      0x80#8 0x00001004#32 [] [(0xFFFFB032#32, [0x00#8, 0x00#8, 0x00#8, 0x00#8])] = true := by decide
/-- V188. -/
theorem test_clr_w_leaves_neighbours :
    ends (start 0x00001000#32 [0xAC41#16] 0x08#8 [(1#4, 0xFFFFB000#32)] [(0xFFFFB000#32, [0xFF#8, 0xFF#8, 0xFF#8,
      0xFF#8])])
      0x08#8 0x00001002#32 [] [(0xFFFFB000#32, [0x00#8, 0x00#8, 0xFF#8, 0xFF#8])] = true := by decide
/-- S21. -/
theorem test_com :
    ends (start 0x00001000#32 [0x4547#16] 0x90#8 [(7#4, 0x7F37B2D3#32)] [])
      0x20#8 0x00001002#32 [(7#4, 0x80C84D2C#32)] [] = true := by decide
/-- S22. -/
theorem test_cp_borrows :
    ends (start 0x00001000#32 [0xA5B3#16] 0x00#8 [(3#4, 0x00000016#32), (11#4, 0x00000020#32)] [])
      0xA0#8 0x00001002#32 [(3#4, 0x00000016#32), (11#4, 0x00000020#32)] [] = true := by decide
/-- S26. -/
theorem test_cp_sb_from_memory :
    ends (start 0x00001000#32 [0x7DAC#16, 0x2000#16] 0x00#8 [(12#4, 0x00000016#32), (10#4, 0xFFFFB020#32)]
      [(0xFFFFB020#32, [0x91#8])])
      0x80#8 0x00001004#32 [(12#4, 0x00000016#32)] [] = true := by decide
/-- S29. -/
theorem test_cpc_borrows_the_carry :
    ends (extended (start 0x00001000#32 [0xA5B3#16] 0x80#8 [(3#4, 0x00000016#32), (11#4, 0x00000016#32)] []))
      0xA0#8 0x00001002#32 [(3#4, 0x00000016#32)] [] = true := by decide
/-- V47. -/
theorem test_cpcz_b_overflows :
    ends (extended (start 0x00001000#32 [0xAC13#16] 0xC0#8 [(3#4, 0xFFFFB000#32)] [(0xFFFFB000#32, [0x80#8])]))
      0x18#8 0x00001002#32 [] [(0xFFFFB000#32, [0x80#8])] = true := by decide
/-- V45. -/
theorem test_cpz_register_is_cp_zero :
    ends (start 0x00001000#32 [0x9500#16] 0x00#8 [(5#4, 0x80000000#32)] [])
      0x28#8 0x00001002#32 [(5#4, 0x80000000#32)] [] = true := by decide
/-- V50 on a register. -/
theorem test_cpcz_register :
    ends (extended (start 0x00001000#32 [0x9500#16] 0xC0#8 [(5#4, 0x00000001#32)] []))
      0x48#8 0x00001002#32 [(5#4, 0x00000001#32)] [] = true := by decide
/-- S34. -/
theorem test_dec_w_with_offset :
    ends (start 0x00001000#32 [0xADF3#16, 0x4008#16] 0x00#8 [(3#4, 0xFFFFB024#32)] [(0xFFFFB02C#32, [0x70#8, 0x2E#8])])
      0x00#8 0x00001004#32 [] [(0xFFFFB02C#32, [0x70#8, 0x2D#8])] = true := by decide
/-- V63. -/
theorem test_dec_w_of_zero :
    ends (start 0x00001000#32 [0xAC71#16] 0x00#8 [(1#4, 0xFFFFB000#32)] [(0xFFFFB000#32, [0x00#8, 0x00#8])])
      0xA8#8 0x00001002#32 [] [(0xFFFFB000#32, [0xFF#8, 0xFF#8])] = true := by decide
/-- V54. -/
theorem test_inc_b_wraps :
    ends (start 0x00001000#32 [0xAC21#16] 0x00#8 [(1#4, 0xFFFFB000#32)] [(0xFFFFB000#32, [0xFF#8])])
      0xC0#8 0x00001002#32 [] [(0xFFFFB000#32, [0x00#8])] = true := by decide
/-- V55. -/
theorem test_inc_b_overflows :
    ends (start 0x00001000#32 [0xAC21#16] 0x00#8 [(1#4, 0xFFFFB000#32)] [(0xFFFFB000#32, [0x7F#8])])
      0x30#8 0x00001002#32 [] [(0xFFFFB000#32, [0x80#8])] = true := by decide
/-- V251. -/
theorem test_di :
    ends (start 0x00001000#32 [0xFFFB#16] 0x83#8 [] [])
      0x82#8 0x00001002#32 [] [] = true := by decide
/-- V250 and R401 (c). -/
theorem test_ei_despite_noflags :
    ends (noflags (start 0x00001000#32 [0xFFFA#16] 0x80#8 [] []))
      0x81#8 0x00001002#32 [] [] = true := by decide
/-- V239. -/
theorem test_djnz_takes_the_jump_from_zero :
    ends (start 0x0000100E#32 [0xFDD6#16] 0x00#8 [(6#4, 0x00000000#32)] [])
      0xA8#8 0x0000100A#32 [(6#4, 0xFFFFFFFF#32)] [] = true := by decide
/-- V243. -/
theorem test_djnz_falls_through :
    ends (noflags (start 0x0000100E#32 [0xFDD6#16] 0x00#8 [(6#4, 0x00000001#32)] []))
      0x00#8 0x00001010#32 [(6#4, 0x00000000#32)] [] = true := by decide
/-- S44. -/
theorem test_ext_sb :
    ends (start 0x00001000#32 [0x42B3#16] 0x98#8 [(11#4, 0x12345686#32)] [])
      0xB0#8 0x00001002#32 [(3#4, 0xFFFFFF86#32)] [] = true := by decide
/-- V181. -/
theorem test_ext_ub_clears_blank :
    ends (start 0x00001000#32 [0x40B3#16] 0x08#8 [(11#4, 0x12345600#32)] [])
      0x40#8 0x00001002#32 [(3#4, 0x00000000#32)] [] = true := by decide
/-- V245. -/
theorem test_iret_normal :
    ends (start 0x00003000#32 [0xFFFD#16] 0x00#8 [(15#4, 0xFFFFBFFA#32)] [(0xFFFFBFFA#32, [0x00#8, 0x00#8, 0x10#8,
      0x02#8, 0x00#8, 0xC1#8])])
      0xC1#8 0x00001002#32 [(15#4, 0xFFFFC000#32)] [] = true := by decide
/-- V224. -/
theorem test_jp_register_clears_bit_0 :
    ends (start 0x00001000#32 [0xF203#16] 0x00#8 [(3#4, 0x00002001#32)] [])
      0x00#8 0x00002000#32 [] [] = true := by decide
/-- V225. -/
theorem test_jpa_clears_bit_0 :
    ends (start 0x00001000#32 [0xF230#16, 0x0001#16, 0x2345#16] 0x00#8 [] [])
      0x00#8 0x00012344#32 [] [] = true := by decide
/-- V221. -/
theorem test_jp_rel12_backward :
    ends (start 0x00002000#32 [0xC800#16] 0x00#8 [] [])
      0x00#8 0x00001002#32 [] [] = true := by decide
/-- V222. -/
theorem test_jp_rel24_backward :
    ends (start 0x00001000#32 [0xF0FF#16, 0xFFFE#16] 0x00#8 [] [])
      0x00#8 0x00001000#32 [] [] = true := by decide
/-- V228. -/
theorem test_jp_cc_taken :
    ends (start 0x00001000#32 [0xEE80#16] 0x00#8 [] [])
      0x00#8 0x00000F02#32 [] [] = true := by decide
/-- V231. -/
theorem test_jp_cc_not_taken :
    ends (start 0x00001000#32 [0xE301#16] 0x00#8 [] [])
      0x00#8 0x00001002#32 [] [] = true := by decide
/-- V230. -/
theorem test_jp_cc_rel16 :
    ends (start 0x00001000#32 [0xF22A#16, 0x7FFF#16] 0x00#8 [] [])
      0x00#8 0x00011002#32 [] [] = true := by decide
/-- S55. -/
theorem test_ld_simm8 :
    ends (start 0x00001000#32 [0x3DFC#16] 0x08#8 [] [])
      0x08#8 0x00001002#32 [(13#4, 0xFFFFFFFC#32)] [] = true := by decide
/-- V131. -/
theorem test_ld_simm17 :
    ends (start 0x00001000#32 [0x4506#16, 0xB002#16] 0x00#8 [] [])
      0x00#8 0x00001004#32 [(6#4, 0x0000B002#32)] [] = true := by decide
/-- V133. -/
theorem test_ld_register_keeps_blank :
    ends (start 0x00001000#32 [0x4487#16] 0x00#8 [(8#4, 0x00000000#32)] [])
      0x00#8 0x00001002#32 [(7#4, 0x00000000#32)] [] = true := by decide
/-- V135. -/
theorem test_ld_addr16_sign_extends :
    ends (start 0x00001000#32 [0x0340#16, 0x8000#16] 0x00#8 [(0#4, 0x00000005#32)] [(0xFFFF8000#32, [0x00#8, 0x00#8,
      0x00#8, 0x00#8])])
      0x08#8 0x00001004#32 [(0#4, 0x00000000#32)] [] = true := by decide
/-- V136. -/
theorem test_ld_addr32 :
    ends (start 0x00001000#32 [0x03C0#16, 0x0000#16, 0x8000#16] 0x08#8 [] [(0x00008000#32, [0x0A#8, 0x0B#8, 0x0C#8,
      0x0D#8])])
      0x00#8 0x00001006#32 [(0#4, 0x0A0B0C0D#32)] [] = true := by decide
/-- S60. -/
theorem test_ld_sw_offset :
    ends (start 0x00001000#32 [0x49DC#16, 0xFFFA#16] 0x08#8 [(13#4, 0xFFFFB07F#32)] [(0xFFFFB079#32, [0xF7#8, 0x23#8])])
      0x00#8 0x00001004#32 [(12#4, 0xFFFFF723#32)] [] = true := by decide
/-- V173. -/
theorem test_ld_pc_offset :
    ends (start 0x00001004#32 [0x0027#16, 0x3FF4#16] 0x08#8 [] [(0x00000FFC#32, [0x00#8, 0x00#8, 0x00#8, 0x42#8])])
      0x00#8 0x00001008#32 [(7#4, 0x00000042#32)] [] = true := by decide
/-- V172. -/
theorem test_ld_fp_offset :
    ends (start 0x00001000#32 [0x6201#16] 0x00#8 [(14#4, 0xFFFFDB20#32), (1#4, 0x00000007#32)] [(0xFFFFDB00#32,
      [0x00#8])])
      0x08#8 0x00001002#32 [(1#4, 0x00000000#32)] [] = true := by decide
/-- S65. -/
theorem test_ld_sw_postincrement :
    ends (start 0x00001000#32 [0x1FD6#16] 0x08#8 [(13#4, 0xFFFFDB22#32)] [(0xFFFFDB22#32, [0x86#8, 0x42#8])])
      0x00#8 0x00001002#32 [(6#4, 0xFFFF8642#32), (13#4, 0xFFFFDB24#32)] [] = true := by decide
/-- V146. -/
theorem test_ld_unaligned_quad :
    ends (start 0x00001000#32 [0x4850#16, 0x0001#16] 0x00#8 [(5#4, 0xFFFFB000#32)] [(0xFFFFB000#32, [0x11#8, 0x22#8,
      0x33#8, 0x44#8, 0x55#8])])
      0x00#8 0x00001004#32 [(0#4, 0x22334455#32)] [] = true := by decide
/-- V167. -/
theorem test_ld_flags_reads_before_blank :
    ends (start 0x00001000#32 [0x0305#16, 0xE010#16] 0x6B#8 [] [])
      0x63#8 0x00001004#32 [(5#4, 0x0000006B#32)] [] = true := by decide
/-- V168. -/
theorem test_ld_flags_behind_noflags :
    ends (noflags (start 0x00001000#32 [0x0305#16, 0xE010#16] 0x6B#8 [] []))
      0x6B#8 0x00001004#32 [(5#4, 0x0000006B#32)] [] = true := by decide
/-- V255. -/
theorem test_ld_store_to_flags :
    ends (noflags (start 0x00001000#32 [0x0350#16, 0xE010#16] 0x00#8 [(0#4, 0x00000081#32)] []))
      0x81#8 0x00001004#32 [] [] = true := by decide
/-- V142. -/
theorem test_ld_store_quad :
    ends (start 0x00001000#32 [0x0B65#16] 0x08#8 [(5#4, 0xFFFFB000#32), (6#4, 0x11223344#32)] [])
      0x08#8 0x00001002#32 [] [(0xFFFFB000#32, [0x11#8, 0x22#8, 0x33#8, 0x44#8])] = true := by decide
/-- P4. -/
theorem test_ld_store_spov :
    ends (start 0x00001000#32 [0x0370#16, 0xE00C#16] 0x00#8 [(0#4, 0xFFFFB000#32), (15#4, 0xFFFFC000#32)] [])
      0x00#8 0x00001004#32 [] [(0xFFFFE00C#32, [0xFF#8, 0xFF#8, 0xB0#8, 0x00#8])] = true := by decide
/-- V151. -/
theorem test_ld_w_store_offset :
    ends (start 0x00001000#32 [0x4B12#16, 0x4008#16] 0x00#8 [(2#4, 0xFFFFB000#32), (1#4, 0xCAFEF00D#32)] [])
      0x00#8 0x00001004#32 [] [(0xFFFFB008#32, [0xF0#8, 0x0D#8])] = true := by decide
/-- V170. -/
theorem test_ld_store_fp :
    ends (start 0x00001000#32 [0x5BC0#16] 0x00#8 [(14#4, 0xFFFFDB1C#32), (0#4, 0x0000000A#32)] [])
      0x00#8 0x00001002#32 [] [(0xFFFFDB18#32, [0x00#8, 0x00#8, 0x00#8, 0x0A#8])] = true := by decide
/-- S63. -/
theorem test_ld_w_predecrement :
    ends (start 0x00001000#32 [0x166D#16] 0x00#8 [(13#4, 0xFFFFDB24#32), (6#4, 0xFFFF8642#32)] [])
      0x00#8 0x00001002#32 [(13#4, 0xFFFFDB22#32)] [(0xFFFFDB22#32, [0x86#8, 0x42#8])] = true := by decide
/-- V157. -/
theorem test_ld_predecrement_own_pointer :
    ends (start 0x00001000#32 [0x1055#16] 0x00#8 [(5#4, 0xFFFFB004#32)] [])
      0x00#8 0x00001002#32 [(5#4, 0xFFFFB000#32)] [(0xFFFFB000#32, [0xFF#8, 0xFF#8, 0xB0#8, 0x00#8])] = true := by
      decide
/-- V158. -/
theorem test_ld_postincrement_own_pointer :
    ends (start 0x00001000#32 [0x1155#16] 0x00#8 [(5#4, 0xFFFFB000#32)] [])
      0x00#8 0x00001002#32 [(5#4, 0xFFFFB004#32)] [(0xFFFFB000#32, [0xFF#8, 0xFF#8, 0xB0#8, 0x00#8])] = true := by
      decide
/-- S64. -/
theorem test_ld_predecrement_immediate :
    ends (start 0x00001000#32 [0x099D#16, 0x0042#16] 0x00#8 [(13#4, 0xFFFFDB22#32)] [])
      0x00#8 0x00001004#32 [(13#4, 0xFFFFDB1E#32)] [(0xFFFFDB1E#32, [0x00#8, 0x00#8, 0x00#8, 0x42#8])] = true := by
      decide
/-- V162. -/
theorem test_ld_b_immediate_ignores_high_byte :
    ends (start 0x00001000#32 [0x09C2#16, 0xFF5A#16] 0x00#8 [(2#4, 0xFFFFB000#32)] [])
      0x00#8 0x00001004#32 [] [(0xFFFFB000#32, [0x5A#8])] = true := by decide
/-- S66. -/
theorem test_ld_cc_ge_false :
    ends (start 0x00001000#32 [0x019D#16] 0x20#8 [] [])
      0x20#8 0x00001002#32 [(13#4, 0x00000000#32)] [] = true := by decide
/-- S67. -/
theorem test_ld_cc_ge_true :
    ends (start 0x00001000#32 [0x019D#16] 0x30#8 [] [])
      0x30#8 0x00001002#32 [(13#4, 0x00000001#32)] [] = true := by decide
/-- V177. -/
theorem test_ldes :
    ends (start 0x00001000#32 [0x4531#16] 0x20#8 [] [])
      0x20#8 0x00001002#32 [(1#4, 0xFFFFFFFF#32)] [] = true := by decide
/-- V183. -/
theorem test_lea_offset :
    ends (start 0x00001000#32 [0x4800#16, 0xBFFE#16] 0xC8#8 [(0#4, 0x00000001#32)] [])
      0xC8#8 0x00001004#32 [(0#4, 0xFFFFFFFF#32)] [] = true := by decide
/-- V186. -/
theorem test_lea_pc :
    ends (start 0x00001000#32 [0x0025#16, 0x8000#16] 0x00#8 [] [])
      0x00#8 0x00001004#32 [(5#4, 0x00001004#32)] [] = true := by decide
/-- S70. -/
theorem test_lea_fp :
    ends (start 0x00001000#32 [0x4D5B#16] 0x00#8 [(14#4, 0xFFFFB016#32)] [])
      0x00#8 0x00001002#32 [(11#4, 0xFFFFB02B#32)] [] = true := by decide
/-- S71. -/
theorem test_mul_keeps_carry :
    ends (start 0x00001000#32 [0xB254#16] 0x98#8 [(4#4, 0x00000086#32), (5#4, 0x80000053#32)] [])
      0x80#8 0x00001002#32 [(4#4, 0x00002B72#32), (5#4, 0x80000053#32)] [] = true := by decide
/-- S72. -/
theorem test_neg :
    ends (start 0x00001000#32 [0x4557#16] 0x00#8 [(7#4, 0x7F37B2D3#32)] [])
      0xA0#8 0x00001002#32 [(7#4, 0x80C84D2D#32)] [] = true := by decide
/-- V65. -/
theorem test_neg_most_negative :
    ends (start 0x00001000#32 [0x4557#16] 0x00#8 [(7#4, 0x80000000#32)] [])
      0xB0#8 0x00001002#32 [(7#4, 0x80000000#32)] [] = true := by decide
/-- S73. -/
theorem test_sub_behind_noflags :
    ends (noflags (start 0x00001000#32 [0xA1B3#16] 0x44#8 [(3#4, 0x00000016#32), (11#4, 0x00000020#32)] []))
      0x44#8 0x00001002#32 [(3#4, 0xFFFFFFF6#32)] [] = true := by decide
/-- S75. -/
theorem test_or_sb_from_memory :
    ends (start 0x00001000#32 [0x7314#16, 0xB07B#16] 0x00#8 [(4#4, 0xFFFFFF79#32)] [(0xFFFFB07B#32, [0xEA#8])])
      0x20#8 0x00001004#32 [(4#4, 0xFFFFFFFB#32)] [] = true := by decide
/-- V100. -/
theorem test_or_address_from_old_register :
    ends (start 0x00001000#32 [0x7B33#16, 0x8004#16] 0x00#8 [(3#4, 0xFFFFB000#32)] [(0xFFFFB004#32, [0x00#8, 0x00#8,
      0x00#8, 0xFF#8])])
      0x20#8 0x00001004#32 [(3#4, 0xFFFFB0FF#32)] [] = true := by decide
/-- S122. -/
theorem test_xor_ub_from_memory :
    ends (start 0x00001000#32 [0x7404#16, 0xB07B#16] 0x00#8 [(4#4, 0xFFFFFF79#32)] [(0xFFFFB07B#32, [0xEA#8])])
      0x20#8 0x00001004#32 [(4#4, 0xFFFFFF93#32)] [] = true := by decide
/-- S123. -/
theorem test_xor_w_to_memory :
    ends (start 0x00001000#32 [0xAB4D#16, 0x80F0#16] 0x00#8 [(13#4, 0xFFFFB07A#32)] [(0xFFFFB07A#32, [0xC3#8, 0xF7#8])])
      0x00#8 0x00001004#32 [] [(0xFFFFB07A#32, [0x43#8, 0x07#8])] = true := by decide
/-- S78. -/
theorem test_pop_sw :
    ends (start 0x00001000#32 [0x1FF6#16] 0x08#8 [(15#4, 0xFFFFDB22#32)] [(0xFFFFDB22#32, [0x86#8, 0x42#8])])
      0x00#8 0x00001002#32 [(6#4, 0xFFFF8642#32), (15#4, 0xFFFFDB24#32)] [] = true := by decide
/-- V206. -/
theorem test_popf_despite_noflags :
    ends (noflags (start 0x00001000#32 [0x0003#16] 0x00#8 [(15#4, 0xFFFFBFFE#32)] [(0xFFFFBFFE#32, [0xA5#8, 0x81#8])]))
      0x81#8 0x00001002#32 [(15#4, 0xFFFFC000#32)] [] = true := by decide
/-- S80. -/
theorem test_popmlo :
    ends (start 0x00001000#32 [0x06E1#16] 0x08#8 [(15#4, 0xFFFFDB22#32)] [(0xFFFFDB22#32, [0x00#8, 0x00#8, 0x12#8,
      0x34#8, 0x00#8, 0x05#8, 0x56#8, 0x78#8, 0x00#8, 0x06#8, 0x9A#8, 0xBC#8, 0x00#8, 0x07#8, 0xDE#8, 0xF0#8])])
      0x00#8 0x00001002#32 [(15#4, 0xFFFFDB32#32), (0#4, 0x00001234#32), (5#4, 0x00055678#32), (6#4, 0x00069ABC#32),
      (7#4, 0x0007DEF0#32), (1#4, 0x00000000#32)] [] = true := by decide
/-- S80. -/
theorem test_popmhi :
    ends (start 0x00001000#32 [0x0720#16] 0x08#8 [(15#4, 0xFFFFDB32#32)] [(0xFFFFDB32#32, [0x00#8, 0x0D#8, 0x43#8,
      0x21#8])])
      0x00#8 0x00001002#32 [(15#4, 0xFFFFDB36#32), (13#4, 0x000D4321#32), (10#4, 0x00000000#32)] [] = true := by decide
/-- V212. -/
theorem test_popmlo_empty :
    ends (start 0x00001000#32 [0x0600#16] 0x08#8 [(15#4, 0xFFFFC000#32)] [])
      0x08#8 0x00001002#32 [(15#4, 0xFFFFC000#32)] [] = true := by decide
/-- V211. -/
theorem test_popmlo_last_zero :
    ends (start 0x00001000#32 [0x0601#16] 0x00#8 [(15#4, 0xFFFFBFE0#32), (0#4, 0x00000007#32)] [(0xFFFFBFE0#32,
      [0x00#8, 0x00#8, 0x00#8, 0x00#8])])
      0x08#8 0x00001002#32 [(15#4, 0xFFFFBFE4#32), (0#4, 0x00000000#32)] [] = true := by decide
/-- S87. -/
theorem test_pushmhi :
    ends (start 0x00001000#32 [0x0504#16] 0x00#8 [(15#4, 0xFFFFDB36#32), (13#4, 0x000D4321#32)] [])
      0x00#8 0x00001002#32 [(15#4, 0xFFFFDB32#32)] [(0xFFFFDB32#32, [0x00#8, 0x0D#8, 0x43#8, 0x21#8])] = true := by
      decide
/-- S87. -/
theorem test_pushmlo :
    ends (start 0x00001000#32 [0x0487#16] 0x00#8 [(15#4, 0xFFFFDB32#32), (7#4, 0x0007DEF0#32), (6#4, 0x00069ABC#32),
      (5#4, 0x00055678#32), (0#4, 0x00001234#32)] [])
      0x00#8 0x00001002#32 [(15#4, 0xFFFFDB22#32)] [(0xFFFFDB22#32, [0x00#8, 0x00#8, 0x12#8, 0x34#8, 0x00#8, 0x05#8,
      0x56#8, 0x78#8, 0x00#8, 0x06#8, 0x9A#8, 0xBC#8, 0x00#8, 0x07#8, 0xDE#8, 0xF0#8])] = true := by decide
/-- V209. -/
theorem test_pushmlo_all :
    ends (start 0x00001000#32 [0x04FF#16] 0x00#8 [(15#4, 0xFFFFC000#32), (0#4, 0x00000000#32), (1#4, 0x00000001#32),
      (2#4, 0x00000002#32), (3#4, 0x00000003#32), (4#4, 0x00000004#32), (5#4, 0x00000005#32), (6#4, 0x00000006#32),
      (7#4, 0x00000007#32)] [])
      0x00#8 0x00001002#32 [(15#4, 0xFFFFBFE0#32)] [(0xFFFFBFE0#32, [0x00#8, 0x00#8, 0x00#8, 0x00#8, 0x00#8, 0x00#8,
      0x00#8, 0x01#8, 0x00#8, 0x00#8, 0x00#8, 0x02#8, 0x00#8, 0x00#8, 0x00#8, 0x03#8, 0x00#8, 0x00#8, 0x00#8, 0x04#8,
      0x00#8, 0x00#8, 0x00#8, 0x05#8, 0x00#8, 0x00#8, 0x00#8, 0x06#8, 0x00#8, 0x00#8, 0x00#8, 0x07#8])] = true := by
      decide
/-- V213. -/
theorem test_pushmhi_sp :
    ends (start 0x00001000#32 [0x0501#16] 0x00#8 [(15#4, 0xFFFFC000#32)] [])
      0x00#8 0x00001002#32 [(15#4, 0xFFFFBFFC#32)] [(0xFFFFBFFC#32, [0xFF#8, 0xFF#8, 0xBF#8, 0xFC#8])] = true := by
      decide
/-- V193. -/
theorem test_push_quad_immediate :
    ends (start 0x00001000#32 [0x0DFF#16] 0x00#8 [(15#4, 0xFFFFC000#32)] [])
      0x00#8 0x00001002#32 [(15#4, 0xFFFFBFFC#32)] [(0xFFFFBFFC#32, [0xFF#8, 0xFF#8, 0xFF#8, 0xFF#8])] = true := by
      decide
/-- S85. -/
theorem test_push_w_immediate :
    ends (start 0x00001000#32 [0x0C42#16] 0x00#8 [(15#4, 0xFFFFDB22#32)] [])
      0x00#8 0x00001002#32 [(15#4, 0xFFFFDB20#32)] [(0xFFFFDB20#32, [0x00#8, 0x42#8])] = true := by decide
/-- S84. -/
theorem test_push_b_immediate :
    ends (start 0x00001000#32 [0x0A42#16] 0x00#8 [(15#4, 0xFFFFDB22#32)] [])
      0x00#8 0x00001002#32 [(15#4, 0xFFFFDB21#32)] [(0xFFFFDB21#32, [0x42#8])] = true := by decide
/-- V198. -/
theorem test_push_sp :
    ends (start 0x00001000#32 [0x10FF#16] 0x00#8 [(15#4, 0xFFFFC000#32)] [])
      0x00#8 0x00001002#32 [(15#4, 0xFFFFBFFC#32)] [(0xFFFFBFFC#32, [0xFF#8, 0xFF#8, 0xBF#8, 0xFC#8])] = true := by
      decide
/-- S86. -/
theorem test_pushf :
    ends (start 0x00001000#32 [0x0002#16] 0xB1#8 [(15#4, 0xFFFFDB24#32)] [])
      0xB1#8 0x00001002#32 [(15#4, 0xFFFFDB22#32)] [(0xFFFFDB22#32, [0x00#8, 0xB1#8])] = true := by decide
/-- V235. -/
theorem test_ret :
    ends (start 0x00001000#32 [0xFFFC#16] 0x08#8 [(15#4, 0xFFFFBFFC#32)] [(0xFFFFBFFC#32, [0x00#8, 0x00#8, 0x20#8,
      0x04#8])])
      0x08#8 0x00002004#32 [(15#4, 0xFFFFC000#32)] [] = true := by decide
/-- V215. -/
theorem test_link :
    ends (start 0x00001000#32 [0x0808#16] 0x00#8 [(15#4, 0xFFFFDB20#32), (14#4, 0x11112222#32)] [])
      0x00#8 0x00001002#32 [(15#4, 0xFFFFDB14#32), (14#4, 0xFFFFDB1C#32)] [(0xFFFFDB1C#32, [0x11#8, 0x11#8, 0x22#8,
      0x22#8])] = true := by decide
/-- V216. -/
theorem test_unlink :
    ends (start 0x00001000#32 [0x0001#16] 0x00#8 [(15#4, 0xFFFFDB14#32), (14#4, 0xFFFFDB1C#32)] [(0xFFFFDB1C#32,
      [0x11#8, 0x11#8, 0x22#8, 0x22#8])])
      0x00#8 0x00001002#32 [(15#4, 0xFFFFDB20#32), (14#4, 0x11112222#32)] [] = true := by decide
/-- S90. -/
theorem test_rl :
    ends (start 0x00001000#32 [0xBE47#16] 0x00#8 [(7#4, 0x7F37B2D3#32)] [])
      0xA0#8 0x00001002#32 [(7#4, 0xF37B2D37#32)] [] = true := by decide
/-- V120. -/
theorem test_rl_register_count :
    ends (start 0x00001000#32 [0xB787#16] 0x00#8 [(7#4, 0x7F37B2D3#32), (8#4, 0x00000024#32)] [])
      0xA0#8 0x00001002#32 [(7#4, 0xF37B2D37#32), (8#4, 0x00000024#32)] [] = true := by decide
/-- V111. -/
theorem test_sll :
    ends (start 0x00001000#32 [0xBDF7#16] 0x00#8 [(7#4, 0x00000003#32)] [])
      0xA0#8 0x00001002#32 [(7#4, 0x80000000#32)] [] = true := by decide
/-- V109. -/
theorem test_sll_count_0 :
    ends (start 0x00001000#32 [0xBC07#16] 0x88#8 [(7#4, 0x80000001#32)] [])
      0x30#8 0x00001002#32 [(7#4, 0x80000001#32)] [] = true := by decide
/-- S95. -/
theorem test_sllx :
    ends (extended (start 0x00001000#32 [0xB687#16] 0x00#8 [(7#4, 0x7F37B2D3#32), (8#4, 0x00000004#32)] []))
      0xA0#8 0x00001002#32 [(7#4, 0xF37B2D30#32), (8#4, 0x00000007#32)] [] = true := by decide
/-- S98. -/
theorem test_sra :
    ends (start 0x00001000#32 [0xB847#16] 0x00#8 [(7#4, 0x8F37B2D3#32)] [])
      0x30#8 0x00001002#32 [(7#4, 0xF8F37B2D#32)] [] = true := by decide
/-- V124. -/
theorem test_srax :
    ends (extended (start 0x00001000#32 [0xB487#16] 0x00#8 [(7#4, 0x80000001#32), (8#4, 0x00000001#32)] []))
      0xA0#8 0x00001002#32 [(7#4, 0xC0000000#32), (8#4, 0x80000000#32)] [] = true := by decide
/-- S100. -/
theorem test_srl :
    ends (start 0x00001000#32 [0xBA47#16] 0x00#8 [(7#4, 0x8F37B2D3#32)] [])
      0x00#8 0x00001002#32 [(7#4, 0x08F37B2D#32)] [] = true := by decide
/-- V123. -/
theorem test_srlx :
    ends (extended (start 0x00001000#32 [0xB587#16] 0x00#8 [(7#4, 0xFFFFFFFF#32), (8#4, 0x0000001F#32)] []))
      0x90#8 0x00001002#32 [(7#4, 0x00000001#32), (8#4, 0xFFFFFFFE#32)] [] = true := by decide
/-- S92. -/
theorem test_sbc :
    ends (extended (start 0x00001000#32 [0xA1B3#16] 0x80#8 [(3#4, 0x00000016#32), (11#4, 0x00000020#32)] []))
      0xA0#8 0x00001002#32 [(3#4, 0xFFFFFFF5#32)] [] = true := by decide
/-- V33. -/
theorem test_sbc_overflows :
    ends (extended (start 0x00001000#32 [0xA131#16] 0xC0#8 [(1#4, 0x80000000#32), (3#4, 0x00000000#32)] []))
      0x18#8 0x00001002#32 [(1#4, 0x7FFFFFFF#32)] [] = true := by decide
/-- S105. -/
theorem test_sub_ub_from_memory :
    ends (start 0x00001000#32 [0x79AC#16, 0x0000#16] 0x00#8 [(12#4, 0x00000016#32), (10#4, 0xFFFFB020#32)]
      [(0xFFFFB020#32, [0x91#8])])
      0xA0#8 0x00001004#32 [(12#4, 0xFFFFFF85#32)] [] = true := by decide
/-- V31. -/
theorem test_sub_simm16_is_signed :
    ends (start 0x00001000#32 [0xAD14#16, 0xFFFF#16] 0x00#8 [(4#4, 0xFFFFB000#32)] [(0xFFFFB000#32, [0x00#8, 0x00#8,
      0x00#8, 0x01#8])])
      0x80#8 0x00001004#32 [] [(0xFFFFB000#32, [0x00#8, 0x00#8, 0x00#8, 0x02#8])] = true := by decide
/-- S93. -/
theorem test_sdiv_truncates :
    ends (start 0x00001000#32 [0xAF54#16] 0x80#8 [(4#4, 0xFFFFFFE5#32), (5#4, 0x00000005#32)] [])
      0xA0#8 0x00001002#32 [(4#4, 0xFFFFFFFB#32), (5#4, 0xFFFFFFFE#32)] [] = true := by decide
/-- V87. -/
theorem test_sdiv_overflow_corner :
    ends (start 0x00001000#32 [0xAF54#16] 0x80#8 [(4#4, 0x80000000#32), (5#4, 0xFFFFFFFF#32)] [])
      0xB0#8 0x00001002#32 [(4#4, 0x80000000#32), (5#4, 0x00000000#32)] [] = true := by decide
/-- S96. -/
theorem test_smul :
    ends (start 0x00001000#32 [0xB154#16] 0x00#8 [(4#4, 0xFFFFFFE5#32), (5#4, 0x00000005#32)] [])
      0x20#8 0x00001002#32 [(4#4, 0xFFFFFF79#32), (5#4, 0xFFFFFFFF#32)] [] = true := by decide
/-- S117. -/
theorem test_umul :
    ends (start 0x00001000#32 [0xB054#16] 0x00#8 [(4#4, 0xFFFFFFE5#32), (5#4, 0x00000005#32)] [])
      0x00#8 0x00001002#32 [(4#4, 0xFFFFFF79#32), (5#4, 0x00000004#32)] [] = true := by decide
/-- S115. -/
theorem test_udiv :
    ends (start 0x00001000#32 [0xAE54#16] 0x00#8 [(4#4, 0xFFFFFFE5#32), (5#4, 0x00000005#32)] [])
      0x00#8 0x00001002#32 [(4#4, 0x3333332D#32), (5#4, 0x00000004#32)] [] = true := by decide
/-- S116. -/
theorem test_udiv64 :
    ends (extended (start 0x00001000#32 [0xAE53#16] 0x00#8 [(3#4, 0x000000FF#32), (4#4, 0xFFFFFFE5#32), (5#4,
      0x00000555#32)] []))
      0x00#8 0x00001002#32 [(3#4, 0x3003002F#32), (4#4, 0x0000054A#32), (5#4, 0x00000555#32)] [] = true := by decide
/-- V92. -/
theorem test_udiv64_pair_wraps :
    ends (extended (start 0x00001000#32 [0xAE2F#16] 0x00#8 [(15#4, 0x00000000#32), (0#4, 0x00000064#32), (2#4,
      0x0000000A#32)] []))
      0x00#8 0x00001002#32 [(15#4, 0x0000000A#32), (0#4, 0x00000000#32), (2#4, 0x0000000A#32)] [] = true := by decide
/-- V91. -/
theorem test_udiv64_divide_overflow :
    ends (extended (start 0x00000450#32 [0xAE20#16] 0x81#8 [(0#4, 0x00000002#32), (1#4, 0x00000000#32), (2#4,
      0x00000002#32), (15#4, 0xFFFFDB22#32)] [(0x00000008#32, [0x00#8, 0x00#8, 0xFE#8, 0x00#8])]))
      0x82#8 0x0000FE00#32 [(0#4, 0x00000002#32), (1#4, 0x00000000#32), (2#4, 0x00000002#32), (15#4, 0xFFFFDB1C#32)]
      [(0xFFFFDB1C#32, [0x00#8, 0x00#8, 0x04#8, 0x52#8, 0x00#8, 0x81#8])] = true := by decide
/-- V266. -/
theorem test_udiv_by_zero :
    ends (start 0x00000450#32 [0xAE54#16] 0x81#8 [(4#4, 0x00000007#32), (5#4, 0x00000000#32), (15#4, 0xFFFFDB22#32)]
      [(0x00000008#32, [0x00#8, 0x00#8, 0xFE#8, 0x00#8])])
      0x82#8 0x0000FE00#32 [(4#4, 0x00000007#32), (5#4, 0x00000000#32), (15#4, 0xFFFFDB1C#32)] [(0xFFFFDB1C#32,
      [0x00#8, 0x00#8, 0x04#8, 0x52#8, 0x00#8, 0x81#8])] = true := by decide
/-- S108. -/
theorem test_tcm :
    ends (start 0x00001000#32 [0xA7E1#16] 0x88#8 [(1#4, 0x00000038#32), (14#4, 0x00000008#32)] [])
      0xC0#8 0x00001002#32 [(1#4, 0x00000038#32), (14#4, 0x00000008#32)] [] = true := by decide
/-- V107. -/
theorem test_tcm_blank_is_uncomplemented :
    ends (start 0x00001000#32 [0xA710#16] 0x00#8 [(0#4, 0x00000000#32), (1#4, 0x80000000#32)] [])
      0x28#8 0x00001002#32 [] [] = true := by decide
/-- S112. -/
theorem test_tm_ub_from_memory :
    ends (start 0x00001000#32 [0x7604#16, 0xB07B#16] 0x50#8 [(4#4, 0x00000079#32)] [(0xFFFFB07B#32, [0x12#8])])
      0x00#8 0x00001004#32 [(4#4, 0x00000079#32)] [] = true := by decide
/-- V108. -/
theorem test_tm_b_of_memory :
    ends (start 0x00001000#32 [0x7657#16, 0xB047#16] 0x80#8 [(7#4, 0x00000002#32)] [(0xFFFFB047#32, [0x00#8])])
      0xC8#8 0x00001004#32 [] [(0xFFFFB047#32, [0x00#8])] = true := by decide
/-- V244. -/
theorem test_trap :
    ends (start 0x00001000#32 [0xFE40#16] 0xC1#8 [(15#4, 0xFFFFC000#32)] [(0x00000100#32, [0x00#8, 0x00#8, 0x30#8,
      0x00#8])])
      0xC1#8 0x00003000#32 [(15#4, 0xFFFFBFFA#32)] [(0xFFFFBFFA#32, [0x00#8, 0x00#8, 0x10#8, 0x02#8, 0x00#8, 0xC1#8])]
      = true := by decide
/-- V263. -/
theorem test_ill :
    ends (start 0x00000450#32 [0xFFFF#16] 0x81#8 [(15#4, 0xFFFFDB22#32)] [(0x00000008#32, [0x00#8, 0x00#8, 0xFE#8,
      0x00#8])])
      0x82#8 0x0000FE00#32 [(15#4, 0xFFFFDB1C#32)] [(0xFFFFDB1C#32, [0x00#8, 0x00#8, 0x04#8, 0x50#8, 0x00#8, 0x81#8])]
      = true := by decide
/-- V265. -/
theorem test_unimplemented_word :
    ends (start 0x00000450#32 [0x0900#16] 0x81#8 [(15#4, 0xFFFFDB22#32)] [(0x00000008#32, [0x00#8, 0x00#8, 0xFE#8,
      0x00#8])])
      0x82#8 0x0000FE00#32 [(15#4, 0xFFFFDB1C#32)] [(0xFFFFDB1C#32, [0x00#8, 0x00#8, 0x04#8, 0x50#8, 0x00#8, 0x81#8])]
      = true := by decide
/-- V262. -/
theorem test_brk_is_illegal :
    ends (start 0x00000450#32 [0x0000#16] 0x81#8 [(15#4, 0xFFFFDB22#32)] [(0x00000008#32, [0x00#8, 0x00#8, 0xFE#8,
      0x00#8])])
      0x82#8 0x0000FE00#32 [(15#4, 0xFFFFDB1C#32)] [(0xFFFFDB1C#32, [0x00#8, 0x00#8, 0x04#8, 0x50#8, 0x00#8, 0x81#8])]
      = true := by decide
/-- V249. -/
theorem test_nop :
    ends (start 0x00001000#32 [0xFFFE#16] 0x08#8 [] [])
      0x08#8 0x00001002#32 [] [] = true := by decide

/-! ### Prefixes, modes, exceptions, interrupts and stops -/

/-- The next state of the step, if it is one, meets this. -/
noncomputable def after (s : State) (p : State → Bool) : Bool :=
  match step s with
  | .next t => p t
  | _ => false

/-- V257: ATM opens a window of three instructions. -/
theorem test_atm : after (start 0x1000#32 [0x0004#16] 0x00#8 [] []) (fun t => t.atmCount == 3) = true := by decide
/-- V258: the NOFLAGS prefix is one of the three. -/
theorem test_noflags_counts :
    after { start 0x1000#32 [0x0005#16] 0x00#8 [] [] with atmCount := 3 }
      (fun t => t.atmCount == 2 && t.noflagsPending) = true := by decide
/-- V254: both prefixes act on one instruction, and the old carry is added. -/
theorem test_extend_keeps_noflags :
    after (noflags (start 0x1000#32 [0x0007#16] 0x00#8 [] [])) (fun t => t.extPending && t.noflagsPending) = true := by
  decide
theorem test_noflags_adc :
    ends (noflags (extended (start 0x1002#32 [0xA031#16] 0xC0#8 [(1#4, 1#32), (3#4, 2#32)] [])))
      0xC0#8 0x1004#32 [(1#4, 4#32)] [] = true := by decide
/-- V260. -/
theorem test_halt :
    after (start 0x1000#32 [0xFFF9#16] 0x00#8 [] []) (fun t => t.runMode == .halt && t.pc == 0x1002#32) = true := by
  decide
theorem test_stop : after (start 0x1000#32 [0xFFF8#16] 0x00#8 [] []) (fun t => t.runMode == .stop) = true := by decide
/-- S118. -/
theorem test_wdt : after (start 0x1000#32 [0xFFF7#16] 0x00#8 [] []) (fun t => t.wdtEnabled) = true := by decide
/-- V264: nothing is pushed while the ILL bit is 1. -/
theorem test_ill_again :
    ends { start 0xFE10#32 [0xFFFF#16] 0x82#8 [(15#4, 0xFFFFDB1C#32)] [(8#32, [0#8, 0#8, 0xFE#8, 0#8])] with
        sysexcp := ⟨false, false, false, false, true, []⟩ }
      0x80#8 0xFE00#32 [(15#4, 0xFFFFDB1C#32)] [] = true := by decide
/-- V93: a second Divide-by-Zero goes on. -/
theorem test_sdiv_by_zero_again :
    ends { start 0x1000#32 [0xAF54#16] 0x01#8 [(4#4, 0x64#32)] [] with sysexcp := ⟨false, false, true, false, false, []⟩ }
      0x01#8 0x1002#32 [(4#4, 0x64#32), (5#4, 0#32)] [] = true := by decide
/-- V267: the push completes, and then the Stack Overflow exception is taken. -/
theorem test_push_overflows_stack :
    ends { start 0x450#32 [0x103F#16] 0x81#8 [(3#4, 0x01020304#32), (15#4, 0xFFFFDB22#32)]
        [(8#32, [0#8, 0#8, 0xFE#8, 0#8])] with spov := 0xFFFFDB20#32 }
      0x82#8 0xFE00#32 [(15#4, 0xFFFFDB18#32)]
      [(0xFFFFDB18#32, [0#8, 0#8, 4#8, 0x52#8, 0#8, 0x81#8, 1#8, 2#8, 3#8, 4#8])] = true := by decide
/-- V269: a value equal to SPOV is no overflow. -/
theorem test_add_reaches_spov :
    ends { start 0x1000#32 [0x8F04#16] 0x00#8 [(15#4, 0xFFFFDB1C#32)] [] with spov := 0xFFFFDB20#32 }
      0x20#8 0x1002#32 [(15#4, 0xFFFFDB20#32)] [] = true := by decide
/-- V270: the instruction above PCOV is not executed. -/
theorem test_pc_overflow :
    ends { start 0x2000#32 [0x3505#16] 0x81#8 [(15#4, 0xFFFFDB22#32)] [(8#32, [0#8, 0#8, 0xFE#8, 0#8])] with
        pcov := 0x1FFF#32 }
      0x82#8 0xFE00#32 [(5#4, 0#32), (15#4, 0xFFFFDB1C#32)]
      [(0xFFFFDB1C#32, [0#8, 0#8, 0x20#8, 2#8, 0#8, 0x81#8])] = true := by decide
/-- V271: an instruction at PCOV is executed. -/
theorem test_pc_at_pcov :
    ends { start 0x1FFE#32 [0x3505#16] 0x81#8 [] [] with pcov := 0x1FFE#32 } 0x81#8 0x2000#32 [(5#4, 5#32)] [] = true := by
  decide

/-- A state at 0000_0454H with a request whose vector quad at 0000_0024H holds 0000_1200H. -/
def interrupted (f : Byte) (nmi : Bool) : State :=
  { start 0x454#32 [0xFFFE#16] f [(15#4, 0xFFFFDB22#32)] [(0x24#32, [0#8, 0#8, 0x12#8, 0#8])] with
    pending := [⟨9, 0x24#32, nmi⟩] }

/-- V272. -/
theorem test_interrupt :
    ends (interrupted 0x61#8 false) 0x62#8 0x1200#32 [(15#4, 0xFFFFDB1C#32)]
      [(0xFFFFDB1C#32, [0#8, 0#8, 4#8, 0x54#8, 0#8, 0x61#8])] = true := by decide
/-- V273. -/
theorem test_interrupt_masked : ends (interrupted 0x60#8 false) 0x60#8 0x456#32 [] [] = true := by decide
theorem test_interrupt_waits_for_window :
    ends { interrupted 0x61#8 true with atmCount := 1 } 0x61#8 0x456#32 [] [] = true := by decide
/-- R545. -/
theorem test_interrupt_ends_halt :
    after { interrupted 0x61#8 false with runMode := .halt } (fun t => t.runMode == .running && t.pc == 0x1200#32) = true := by
  decide
/-- V246: a chained return leaves the stack. -/
theorem test_iret_chained :
    ends { start 0x454#32 [0xFFFD#16] 0x02#8 [(15#4, 0xFFFFBFFA#32)] [(0x24#32, [0#8, 0#8, 0x13#8, 0#8])] with
        pending := [⟨9, 0x24#32, false⟩] }
      0x02#8 0x1300#32 [(15#4, 0xFFFFBFFA#32)] [] = true := by decide

/-- V236. -/
theorem test_ret_odd :
    faults (start 0x1000#32 [0xFFFC#16] 0x00#8 [(15#4, 0xFFFFB000#32)] [(0xFFFFB000#32, [0#8, 0#8, 0x20#8, 5#8])])
      .oddPc = true := by decide
/-- V259. -/
theorem test_extend_nop : refuses (extended (start 0x1000#32 [0xFFFE#16] 0x00#8 [] [])) .extendUndefined = true := by
  decide
/-- V159. -/
theorem test_ld_own_pointer : refuses (start 0x1000#32 [0x1355#16] 0x00#8 [] []) .pointerOverlap = true := by decide
/-- V203. -/
theorem test_pop_sp : refuses (start 0x1000#32 [0x13FF#16] 0x00#8 [] []) .pointerOverlap = true := by decide
/-- V214. -/
theorem test_popmhi_sp : refuses (start 0x1000#32 [0x0780#16] 0x00#8 [] []) .pointerOverlap = true := by decide
/-- R231 and D22. -/
theorem test_smul_one_register : refuses (start 0x1000#32 [0xB144#16] 0x00#8 [] []) .registerOverlap = true := by decide
/-- R85. -/
theorem test_store_to_rom : refuses (start 0x1000#32 [0xAC07#16] 0x00#8 [] []) .storeToNonVolatile = true := by decide
/-- R108 and D21. -/
theorem test_stale_fetch :
    refuses { start 0x9000#32 [0xFFFE#16] 0x00#8 [] [] with dirty := [0x9001] } .staleFetch = true := by decide
/-- R110. -/
theorem test_fetch_from_io : faults (start 0xFFFFE000#32 [] 0x00#8 [] []) .fetchFromIo = true := by decide
/-- R600: a device with a program resets to it. -/
theorem test_reset_event :
    (match resetMachine (start 0x1000#32 [] 0xFF#8 [] [(4#32, [0#8, 0#8, 1#8, 0#8])]) with
      | .next t => t.pc == 0x100#32 && t.flags == 0x00#8
      | _ => false) = true := by decide
/-- The first word stored after reset runs. -/
theorem test_with_fetch_word :
    ends (State.reset.withFetchWord 16 0x3534) 0x00#8 0x102#32 [(5#4, 0x34#32)] [] = true := by decide

/-! ### Witnesses: states and operands that meet the hypotheses of the statements -/

/-- A state with a program at 0000_1000H, vectors at 4, 8, 24H and 100H, a stack and a frame pointer in RAM. -/
def base (ws : List Word) : State :=
  start 0x1000#32 ws 0x81#8
    [(1#4, 0xFFFFB010#32), (2#4, 0x00000003#32), (3#4, 0x80000000#32), (4#4, 0xFFFFFFFF#32),
      (14#4, 0xFFFFC100#32), (15#4, 0xFFFFC000#32)]
    [(4#32, [0#8, 0#8, 1#8, 0#8]), (8#32, [0#8, 0#8, 0xFE#8, 0#8]), (0x24#32, [0#8, 0#8, 0x12#8, 0#8]),
      (0x100#32, [0#8, 0#8, 0x30#8, 0#8]), (0xFFFFB010#32, [0x80#8, 1#8, 2#8, 3#8]),
      (0xFFFFC000#32, [0#8, 0#8, 0x20#8, 0x04#8, 0#8, 0xC1#8])]

/-- The same with an odd quad on the stack. -/
def oddTop : State := { base [] with mem := placeBytes Device.default 0xFFFFC003#32 [5#8] (base []).mem }

/-- A device with an address for SYSEXCP and a peripheral, and no external memory. -/
def otherDevice : Device :=
  { Device.default with
    memMap := [⟨0x000000, 0x8000, .nonVolatile⟩, ⟨0xFF8000, 0x6000, .ram⟩]
    peripherals := [⟨0x100, 16⟩]
    sysexcpLayout := some ⟨0x20, 2, 8, 9, 2, 1, 0⟩
    ocdBreaks := true
    extraSysExc := [3, 12]
    irqSources := (List.range 24).map fun n => ⟨BitVec.ofNat 32 (0x10 + 4 * n), n == 0⟩
    haltWake := .reset
    stopWake := .stay
    wdtPeriod := some 7
    wdtEnabledAtReset := true
    dmaReach := [⟨0xFFB000, 0x100⟩, ⟨0xFFE010, 1⟩] }

/-- A state of that device with two status bits set. -/
def onOtherDevice : State :=
  { base [] with dev := otherDevice, sysexcp := ⟨true, false, false, false, true, []⟩ }

/-! ### What the other agents do between steps, on that device -/

/-- R500 and R9, with the example map of vectors: source 5 and the nonmaskable source 0, and no source 24. -/
theorem test_present_requests :
    (presentRequests [5, 24, 0] onOtherDevice).pending = [⟨5, 0x24#32, false⟩, ⟨0, 0x10#32, true⟩] := by decide
/-- R104: a byte that the DMA controller reaches, and one that it does not. -/
theorem test_dma_write :
    (match dmaWrite 0xFFFFB010#32 0x55#8 onOtherDevice with | .next t => byteAt 0xFFFFB010#32 t == 0x55#8 | _ => false)
      && (match dmaWrite 0xFFFFC000#32 0x55#8 onOtherDevice with
        | .next t => byteAt 0xFFFFC000#32 t == byteAt 0xFFFFC000#32 onOtherDevice
        | _ => false) = true := by decide
/-- R400 (b). -/
theorem test_dma_waits_for_the_window : dmaMay { onOtherDevice with atmCount := 1 } 0xFFFFB010#32 = false := by decide
/-- R104. -/
theorem test_dma_read :
    (match dmaRead 0xFFFFB013#32 onOtherDevice with | .next t => t.dmaSeen == [3#8] | _ => false) = true := by decide
/-- The model's default device has no DMA controller (D20), so it plans nothing there. -/
theorem test_dma_absent :
    (planDma [[.write 0xFFFFB010#32 0#8]] (base [])).dmaPlan = []
      ∧ (planDma [[.write 0xFFFFB010#32 0#8]] onOtherDevice).dmaPlan = [[.write 0xFFFFB010#32 0#8]] := by decide

/-! ### What the DMA controller does inside an instruction, on that device -/

/-- After exec of an instruction with a DMA plan on that device. -/
noncomputable def withDma (plan : List (List DmaAccess)) (i : Instr) (p : State → Bool) : Bool :=
  match exec i (planDma plan onOtherDevice) with
  | .next t => p t
  | _ => false

/-- R103 (b), D20: two writes between the second and the third byte of a quad that is read; the first comes too late. -/
theorem test_dma_inside_a_read :
    withDma [[], [], [.write 0xFFFFB010#32 0x55#8, .write 0xFFFFB013#32 0x66#8]] (.ldAddr32 5#4 0xFFFFB010#32)
      (fun t => t.reg 5#4 == 0x80010266#32 && byteAt 0xFFFFB010#32 t == 0x55#8 && t.dmaPlan == []) = true := by decide
/-- R103 (b), D20: between the two bytes of a word that is stored, the new byte and the old one are seen. -/
theorem test_dma_inside_a_write :
    withDma [[], [.read 0xFFFFB010#32, .read 0xFFFFB011#32]] (.ldWToAddr32 0xFFFFB010#32 4#4)
      (fun t => t.dmaSeen == [0x01#8, 0xFF#8] && byteAt 0xFFFFB011#32 t == 0xFF#8) = true := by decide
/-- R103 (c): a write between the read and the store of INC.B is lost. -/
theorem test_dma_inside_a_read_modify_write :
    withDma [[], [.write 0xFFFFB013#32 0x40#8]] (.incBAddr32 0xFFFFB013#32)
      (fun t => byteAt 0xFFFFB013#32 t == 0x04#8) = true := by decide
/-- That device with the stack where the DMA controller reaches it. -/
def lowStack : State := { onOtherDevice with regs := onOtherDevice.regs.set 15 0xFFFFB012#32 }

/-- R99: between the two bytes of a pushed word, the low-order byte stands and the high-order byte is the old one, for
PUSH.W #simm8 and for PUSH.W Rs, which is LD.W (--R15),Rs (R363). -/
theorem test_dma_inside_a_push :
    [Instr.pushWSimm8 0x42#8, .ldWToPre 15#4 2#4].map (fun i =>
      match exec i (planDma [[], [.read 0xFFFFB010#32, .read 0xFFFFB011#32]] lowStack) with
      | .next t => (t.dmaSeen, valueAt .word 0xFFFFB010#32 t, t.sp)
      | _ => ([], 0#16, 0#32))
    = [([0x42#8, 0x80#8], 0x0042#16, 0xFFFFB010#32), ([0x03#8, 0x80#8], 0x0003#16, 0xFFFFB010#32)] := by decide
/-- R202 (a), R207: ADC adds the C of before the instruction, also where a DMA write clears it during the operand read;
F1, CIRQE and IRQE, which ADC does not write (R49), are as that write left them. -/
theorem test_dma_changes_flags :
    (match exec (.addAddr32 0#4 0xFFFFB010#32)
        { planDma [[.write 0xFFFFE010#32 0x06#8]] onOtherDevice with extPending := true, flags := 0x81#8 } with
      | .next t => t.reg 0#4 == 0x80010204#32 && t.flags == 0x2E#8
      | _ => false) = true := by decide
/-- R103 (d), R400 (b): in an ATM window the plan waits. -/
theorem test_dma_plan_waits_in_the_window :
    (match exec (.incBAddr32 0xFFFFB013#32)
        { planDma [[.write 0xFFFFB013#32 0x40#8]] onOtherDevice with atmCount := 1 } with
      | .next t => byteAt 0xFFFFB013#32 t == 0x04#8 && t.dmaPlan == [[.write 0xFFFFB013#32 0x40#8]]
      | _ => false) = true := by decide
/-- D20: no access of the DMA controller falls inside an interrupt entry. -/
theorem test_dma_plan_waits_in_an_entry :
    (match step (planDma [[.write 0xFFFFB010#32 0x40#8]] { onOtherDevice with pending := [⟨9, 0x24#32, false⟩] }) with
      | .next t => t.pc == 0x1200#32 && byteAt 0xFFFFB010#32 t == 0x80#8 && t.dmaPlan == [[.write 0xFFFFB010#32 0x40#8]]
      | _ => false) = true := by decide
/-- R533 item 3: of a two-word instruction at 0000_1000H, a DMA write that lowers PCOV before word 0 is complete makes it
overflow; before word 1 it comes too late, and the instruction executes. -/
theorem test_pcov_is_looked_at_after_word_0 :
    [[[], [.write 0xFFFFE004#32 0#8]], [[], [], [.write 0xFFFFE004#32 0#8]]].map (fun plan =>
      match step (planDma plan { base [0x7214#16, 0xB010#16] with
          dev := { otherDevice with dmaReach := [⟨0xFFE004, 4⟩] }, pcov := 0x010000FF#32 }) with
      | .next t => (t.pc, t.reg 4#4, t.sp, t.pcov)
      | _ => (0#32, 0#32, 0#32, 0#32))
    = [(0xFE00#32, 0xFFFFFFFF#32, 0xFFFFBFFA#32, 0xFF#32), (0x1004#32, 0xFFFFFF80#32, 0xFFFFC000#32, 0xFF#32)] := by decide
/-- D29. -/
theorem test_resume_from_break :
    (let t := resumeFromBreak 0x2000#32 { onOtherDevice with runMode := .debugBreak };
      t.runMode == .running && t.pc == 0x2000#32) = true := by decide
/-- R532: the entry of R520, with the exception's own bit, which reads in SYSEXCP and is cleared by writing 1. -/
theorem test_device_exception :
    (match deviceException 12 onOtherDevice with
      | .next t =>
        t.pc == 0xFE00#32 && valueAt .quad 0xFFFFBFFA#32 t == 0x1000#32 && byteAt 0xFFFFE020#32 t == 0x11#8
          && t.sysexcp.extra == [12] && (clearSysExcp ⟨0x20, 2, 8, 9, 2, 1, 0⟩ 0 0x10#8 t.sysexcp).extra == []
      | _ => false) = true := by decide
/-- R524: the exception does not recur while its bit is set, and R532: the device has no other. -/
theorem test_device_exception_once :
    deviceExceptionReady 12 { onOtherDevice with sysexcp := ⟨false, false, false, false, false, [12]⟩ } = false
      ∧ deviceExceptionReady 13 onOtherDevice = false := by decide
/-- R600 and D35: the device's own enable of the Watchdog Timer, and the time-out. -/
theorem test_watchdog_reset :
    (match watchdogTimeout { onOtherDevice with wdtEnabled := true, runMode := .halt } with
      | .next t => t.pc == 0x100#32 && t.wdtEnabled && t.wdtCounter == 7 && t.runMode == .running
      | _ => false) = true := by decide

/-- Whether the step answers a next state. -/
noncomputable def goesOn (s : State) : Bool := after s fun _ => true

theorem next_of_goesOn {s : State} (h : goesOn s = true) : ∃ t, step s = .next t := by
  unfold goesOn after at h
  split at h
  · exact ⟨_, ‹_›⟩
  · cases h

/-- Whether a place is RAM or external memory. -/
def isPlain : Location → Bool
  | .memory _ => true
  | _ => false

/-- Whether a place is memory of any kind. -/
def isStored : Location → Bool
  | .memory _ => true
  | .readOnly _ => true
  | _ => false

theorem plainBytes_of_check {d : Device} {a : Quad} {n : Nat}
    (h : (bytesFrom n a).all (fun b => isPlain (locate d b)) = true) : PlainBytes d a n := by
  intro k hk
  have := List.all_eq_true.mp h (a + BitVec.ofNat 32 k) (List.mem_map.mpr ⟨k, List.mem_range.mpr hk, rfl⟩)
  unfold isPlain at this
  split at this
  · exact ⟨_, ‹_›⟩
  · cases this

theorem stored_of_check {d : Device} {a : Quad} {n : Nat}
    (h : (bytesFrom n a).all (fun b => isStored (locate d b)) = true) :
    ∀ k < n, ∃ p, locate d (a + BitVec.ofNat 32 k) = .memory p ∨ locate d (a + BitVec.ofNat 32 k) = .readOnly p := by
  intro k hk
  have := List.all_eq_true.mp h (a + BitVec.ofNat 32 k) (List.mem_map.mpr ⟨k, List.mem_range.mpr hk, rfl⟩)
  unfold isStored at this
  split at this
  · exact ⟨_, .inl ‹_›⟩
  · exact ⟨_, .inr ‹_›⟩
  · cases this

/-- Whether the quad at v is away from n bytes at a. -/
def outsideCheck (d : Device) (a : Quad) (n : Nat) (v : Quad) : Bool :=
  (List.range 4).all fun k => (List.range n).all fun j =>
    physical d (v + BitVec.ofNat 32 k) != physical d (a + BitVec.ofNat 32 j)

theorem outside_of_check {d : Device} {a v : Quad} {n : Nat} (h : outsideCheck d a n v = true) :
    ∀ k < 4, Outside d a n (v + BitVec.ofNat 32 k) := by
  intro k hk j hj
  have := List.all_eq_true.mp (List.all_eq_true.mp h k (List.mem_range.mpr hk)) j (List.mem_range.mpr hj)
  simpa using this

/-- The conditions of EntryReady, as one check. -/
def entryCheck (s : State) (v target : Quad) : Bool :=
  decide (Memory.wf s.mem)
    && (bytesFrom 6 (s.reg spReg - 6#32)).all (fun b => isPlain (locate s.dev b))
    && (bytesFrom 4 v).all (fun b => isStored (locate s.dev b))
    && outsideCheck s.dev (s.reg spReg - 6#32) 6 v
    && (valueAt .quad v s).toNat == target.toNat && !target.getLsbD 0

theorem entryReady_of_check {s : State} {v target : Quad} (h : entryCheck s v target = true) :
    EntryReady s v target := by
  simp only [entryCheck, Bool.and_eq_true, decide_eq_true_eq, Bool.not_eq_true', beq_iff_eq] at h
  obtain ⟨⟨⟨⟨⟨h1, h2⟩, h3⟩, h4⟩, h5⟩, h6⟩ := h
  exact ⟨h1, plainBytes_of_check h2, stored_of_check h3, outside_of_check h4, BitVec.eq_of_toNat_eq h5, h6⟩

theorem readable_of_check {d : Device} {z : Size} {a : Quad}
    (h : (bytesFrom (Size.bytes z) a).all (fun b => readStop d b == none) = true) : Readable d z a := by
  intro b hb
  simpa using List.all_eq_true.mp h b hb

theorem writable_of_check {d : Device} {z : Size} {a : Quad}
    (h : (bytesFrom (Size.bytes z) a).all (fun b => writeStop d b == none) = true) : Writable d z a := by
  intro b hb
  simpa using List.all_eq_true.mp h b hb

/-- The conditions of Fetchable, as one check. -/
def fetchCheck (s : State) : Bool :=
  s.dmaPlan == [] && !s.pc.getLsbD 0 && (bytesFrom (2 * instrWords (wordAtPc s)) s.pc).all fun a => fetchStop s a == none

theorem fetchable_of_check {s : State} (h : fetchCheck s = true) : Fetchable s := by
  simp only [fetchCheck, Bool.and_eq_true, Bool.not_eq_true', beq_iff_eq] at h
  exact ⟨.inr h.1.1, h.1.2, fun a ha => by simpa using List.all_eq_true.mp h.2 a ha⟩

/-- The conditions under which a step runs an instruction, as one check: the CPU runs, no request, no PC overflow. -/
noncomputable def runCheck (s : State) (i : Instr) : Bool :=
  decide (s.runMode = .running) && decide (boundaryRequest s = none) && fetchCheck s && !pcOverflows s
    && decide (decode s.extPending (instrBytes s) = .whole (.instr i))

/-- What the statements on one step ask of a state. -/
def Runs (s : State) (i : Instr) : Prop :=
  s.runMode = .running ∧ boundaryRequest s = none ∧ Fetchable s ∧ pcOverflows s = false ∧
    decode s.extPending (instrBytes s) = .whole (.instr i)

theorem runs_of_check {s : State} {i : Instr} (h : runCheck s i = true) : Runs s i := by
  simp only [runCheck, Bool.and_eq_true, decide_eq_true_eq, Bool.not_eq_true'] at h
  obtain ⟨⟨⟨⟨h1, h2⟩, h3⟩, h4⟩, h5⟩ := h
  exact ⟨h1, h2, fetchable_of_check h3, h4, h5⟩

/-- DecodeEncode and ExtendedForms: a load next to the refused one, and one instruction of each case. -/
theorem witness_well_formed :
    wellFormed (.ldPostInc 15#4 14#4) = true ∧ wellFormed (.cpSimm8 0#4 0#8) = true
      ∧ wellFormed (.cpSimm8 15#4 0xFF#8) = true ∧ wellFormed (.cpczReg 0#4) = true ∧ wellFormed .noflags = true
      ∧ wellFormed .extend = true ∧ wellFormed .ill = true ∧ wellFormed .brk = true
      ∧ wellFormed (.addImm32 15#4 0xFFFFFFFF#32) = true ∧ wellFormed .nop = true := by decide

/-- StepRunsDecoded: one word, and three words behind the Extend prefix. -/
theorem witness_step_runs_decoded :
    Runs (base [0xFFFE#16]) .nop
      ∧ Runs (extended (base [0xAA8F#16, 0xFFFF#16, 0xFFFF#16])) (.addImm32 15#4 0xFFFFFFFF#32) :=
  ⟨runs_of_check (by decide), runs_of_check (by decide)⟩

/-- PrefixLatches, AtomicWindow, RunningStepEvenPc, StepKeepsRomAndDevice: for every clause an instruction that runs. -/
theorem witness_prefix_latches :
    (∃ t, Runs (base [0x0007#16]) .extend ∧ step (base [0x0007#16]) = .next t)
      ∧ (∃ t, Runs (base [0x0005#16]) .noflags ∧ step (base [0x0005#16]) = .next t)
      ∧ (∃ t, Runs (base [0x0004#16]) .atm ∧ step (base [0x0004#16]) = .next t)
      ∧ (∃ t, Runs (base [0xFFFF#16]) .ill ∧ step (base [0xFFFF#16]) = .next t)
      ∧ (∃ t, Runs (base [0x0000#16]) .brk ∧ step (base [0x0000#16]) = .next t)
      ∧ ∃ t, Runs { base [0xFFFE#16] with atmCount := 3 } .nop
          ∧ step { base [0xFFFE#16] with atmCount := 3 } = .next t := by
  refine ⟨?_, ?_, ?_, ?_, ?_, ?_⟩ <;>
    exact (next_of_goesOn (by decide)).imp fun t h => ⟨runs_of_check (by decide), h⟩

/-- StepKeepsInvariant: a running state and a halted one. -/
theorem witness_invariant :
    (∃ t, Invariant (base [0xFFFE#16]) ∧ step (base [0xFFFE#16]) = .next t)
      ∧ ∃ t, Invariant { base [] with runMode := .halt } ∧ step { base [] with runMode := .halt } = .next t := by
  refine ⟨?_, ?_⟩ <;>
    exact (next_of_goesOn (by decide)).imp fun t h => ⟨⟨by decide, by decide, by decide, by decide, by decide⟩, h⟩

/-- ResetEvent: an even vector, and the odd one of an erased device. -/
theorem witness_reset_event :
    ((∀ k < 4, ∃ p, locate (base []).dev ((base []).dev.resetVector + BitVec.ofNat 32 k) = .memory p
        ∨ locate (base []).dev ((base []).dev.resetVector + BitVec.ofNat 32 k) = .readOnly p)
      ∧ (valueAt .quad (base []).dev.resetVector (base [])).getLsbD 0 = false)
      ∧ (∀ k < 4, ∃ p, locate State.reset.dev (State.reset.dev.resetVector + BitVec.ofNat 32 k) = .memory p
        ∨ locate State.reset.dev (State.reset.dev.resetVector + BitVec.ofNat 32 k) = .readOnly p)
      ∧ (valueAt .quad State.reset.dev.resetVector State.reset).getLsbD 0 = true :=
  ⟨⟨stored_of_check (by decide), by decide⟩, stored_of_check (by decide), by decide⟩

/-- IncrementDecrement: an instruction that completes with the DMA controller in between. -/
theorem witness_increment_with_dma :
    ∃ t, exec (uopInstr .inc .word (.addr32 0xFFFFB010#32))
      (planDma [[], [.write 0xFFFFB010#32 1#8]] onOtherDevice) = .next t :=
  ⟨_, rfl⟩

/-- StepKeepsRomAndDevice, RunningStepEvenPc and AtomicWindow. -/
theorem witness_running_step :
    (∃ t, step (base [0xFFFE#16]) = .next t) ∧ locate (base []).dev 0x7FFF#32 = .readOnly 0x7FFF
      ∧ (base [0xFFFE#16]).runMode = .running
      ∧ ∃ t, { base [0xFFFD#16] with atmCount := 1, pending := [⟨9, 0x24#32, true⟩] }.atmCount ≠ 0
          ∧ step { base [0xFFFD#16] with atmCount := 1, pending := [⟨9, 0x24#32, true⟩] } = .next t :=
  ⟨next_of_goesOn (by decide), by decide, by decide,
    (next_of_goesOn (by decide)).imp fun t h => ⟨by decide, h⟩⟩

/-- MemReadBigEndian: a quad that wraps at the top of the address space, in a state where the DMA controller does nothing;
four turns of it that do something; and the first byte that it reaches. -/
theorem witness_mem_read :
    Readable (base []).dev .quad 0xFFFFFFFE#32 ∧ Undisturbed (base [])
      ∧ (let s := planDma [[.write 0xFFFFB000#32 1#8], [.read 0xFFFFB0FF#32]] onOtherDevice;
          Readable s.dev .quad 0xFFFFB0FE#32 ∧ ∃ t, afterTurns 4 s = .next t)
      ∧ dmaMay onOtherDevice 0xFFFFB000#32 = true ∧ Readable onOtherDevice.dev .byte 0xFFFFB000#32 :=
  ⟨readable_of_check (by decide), .inr rfl, ⟨readable_of_check (by decide), _, rfl⟩, by decide,
    readable_of_check (by decide)⟩

/-- MemWriteBigEndian: the first quad of RAM, and one that reaches from the last of it into the I/O block. -/
theorem witness_mem_write :
    Memory.wf (base []).mem ∧ Writable (base []).dev .quad 0xFFFF8000#32 ∧ Writable (base []).dev .quad 0xFFFFDFFE#32
      ∧ Undisturbed (base []) :=
  ⟨by decide, writable_of_check (by decide), writable_of_check (by decide), .inr rfl⟩

/-- MemWriteBigEndian: a word that is stored with the DMA controller in between, at the last byte that it reaches. -/
theorem witness_mem_write_with_dma :
    let s := planDma [[.write 0xFFFFB0FF#32 7#8], [.write 0xFFFFB0FF#32 9#8]] onOtherDevice;
    Memory.wf s.mem ∧ (∃ t, busWrite .word 0xFFFFB0FE#32 0x1234#16 s = .next t) ∧ dmaMay s 0xFFFFB0FF#32 = true
      ∧ Writable s.dev .byte 0xFFFFB0FF#32
      ∧ s.dmaPlan = [.write 0xFFFFB0FF#32 7#8] :: [[.write 0xFFFFB0FF#32 9#8]] :=
  ⟨by decide, ⟨_, rfl⟩, by decide, writable_of_check (by decide), rfl⟩

/-- MemWriteBigEndian, StoreOfRegister: a push, alone and by an instruction, with the DMA controller in between. -/
theorem witness_push_with_dma :
    let s := planDma [[.write 0xFFFFB010#32 7#8], [.write 0xFFFFB011#32 9#8]] lowStack;
    Memory.wf s.mem ∧ (∃ t, busWriteDown .word 0xFFFFB010#32 0x1234#16 s = .next t) ∧ (∃ t, busPush .word 0x1234#16 s = .next t)
      ∧ (∃ t, busWriteDown .word 0xFFFFB010#32 0x1234#16 lowStack = .next t) ∧ Undisturbed lowStack
      ∧ ∃ t, exec (storeInstr .word (.preDec 15#4) 2#4) s = .next t :=
  ⟨by decide, ⟨_, rfl⟩, ⟨_, rfl⟩, ⟨_, rfl⟩, .inr rfl, ⟨_, rfl⟩⟩

theorem bopInstr_ne_nop (op : Bop) (f : BopForm) : Instr.nop ≠ bopInstr op f := by
  cases f with
  | load k _ m => cases op <;> cases k <;> cases m <;> nofun
  | store z m _ => cases op <;> cases z <;> cases m <;> nofun
  | _ => cases op <;> nofun

/-- ExtendedForms: instructions with an extended form, and one without. -/
theorem witness_extended_form :
    ExtendedForm (.addBMemImm8 0#4 0xFF#8) (.addBMemImm8 0#4 0xFF#8) ∧ ExtendedForm (.cpSimm8 0#4 0#8) (.cpczReg 0#4)
      ∧ ExtendedForm (.cpSimm8 15#4 1#8) (.cpSimm8 15#4 1#8) ∧ ∀ j, ¬ExtendedForm .nop j := by
  refine ⟨.add (.memBImm8 _ _), .cpZero _, .cpSimm8 _ _ (by decide), ?_⟩
  intro j h
  generalize e : Instr.nop = i at h
  cases h with
  | add f => exact bopInstr_ne_nop _ f e
  | sub f => exact bopInstr_ne_nop _ f e
  | cp f => exact bopInstr_ne_nop _ f e
  | cpz z m => cases z <;> cases m <;> cases e
  | _ => cases e

/-- AccessWithoutMemory: every kind of place, at the first or last byte of its range, alone and in the last byte of a word. -/
theorem witness_access_without_memory :
    locate onOtherDevice.dev 0xFFFFE000#32 = .ioUnavailable ∧ locate onOtherDevice.dev 0x8000#32 = .unavailable
      ∧ locate onOtherDevice.dev (0x7FFF#32 + BitVec.ofNat 32 1) = .unavailable
      ∧ locate onOtherDevice.dev 0xFFFFE10F#32 = .peripheral
      ∧ locate onOtherDevice.dev (0xFFFFE0FF#32 + BitVec.ofNat 32 1) = .peripheral
      ∧ locate onOtherDevice.dev 0x7FFF#32 = .readOnly 0x7FFF
      ∧ locate onOtherDevice.dev (0xFFFFFFFF#32 + BitVec.ofNat 32 1) = .readOnly 0 := by decide

/-- AccessWithoutMemory: a turn of the DMA controller before an access. -/
theorem witness_turn : ∃ t, dmaTurn (planDma [[.write 0xFFFFB010#32 7#8]] onOtherDevice) = .next t := ⟨_, rfl⟩

/-- SysExcpWriteOneClears: both bytes of a register of two. -/
theorem witness_sysexcp :
    locate onOtherDevice.dev 0xFFFFE020#32 = .sysexcp ⟨0x20, 2, 8, 9, 2, 1, 0⟩ 0
      ∧ locate onOtherDevice.dev 0xFFFFE021#32 = .sysexcp ⟨0x20, 2, 8, 9, 2, 1, 0⟩ 1 := by decide

/-- ControlRegisterBytes: 24 address bits, and a place in memory. -/
theorem witness_control_registers :
    (base []).dev.addrWidth = .bits24 ∧ ∃ p, locate (base []).dev 0xFFFFDFFF#32 = .memory p := ⟨rfl, _, rfl⟩

/-- Addition to BitTests: every form with a register destination, a memory source extended with zeros, signs and not at all. -/
theorem witness_register_operands :
    RegOperands (base []) (.imm32 15#4 0xFFFFFFFF#32) 15#4 0xFFFFFFFF#32
      ∧ RegOperands (base []) (.uimm16 0#4 0xFFFF#16) 0#4 0x0000FFFF#32
      ∧ RegOperands (base []) (.reg 2#4 2#4) 2#4 0x00000003#32
      ∧ RegOperands (base []) (.load .sb 1#4 (.ind 1#4 0#13)) 1#4 0xFFFFFF80#32
      ∧ RegOperands (base []) (.load .uw 1#4 (.addr16 0xB010#16)) 1#4 0x00008001#32
      ∧ RegOperands (base []) (.load .q 1#4 (.addr32 0xFFFFB010#32)) 1#4 0x80010203#32 :=
  ⟨.imm32 _ _, .uimm16 _ _, .reg _ _,
    .load .sb _ _ _ (.inr rfl) (readable_of_check (by decide)) (by unfold Extended; decide),
    .load .uw _ _ _ (.inr rfl) (readable_of_check (by decide)) (by unfold Extended; decide),
    .load .q _ _ _ (.inr rfl) (readable_of_check (by decide)) (by unfold Extended; decide)⟩

/-- Addition to BitTests: every form with a memory destination, with the address it has in this state. -/
theorem witness_memory_operands :
    (MemOperands (base []) (.store .word (.ind 1#4 0x1FFF#13) 3#4) .word 0xFFFFB00F#32 0x0000#16
      ∧ MemOperands (base []) (.memImm32 1#4 0#32) .quad 0xFFFFB010#32 0#32
      ∧ MemOperands (base []) (.memSimm16 1#4 0xFFFF#16) .quad 0xFFFFB010#32 0xFFFFFFFF#32
      ∧ MemOperands (base []) (.memWImm16 1#4 0x8000#16) .word 0xFFFFB010#32 0x8000#16
      ∧ MemOperands (base []) (.memBImm8 1#4 0xFF#8) .byte 0xFFFFB010#32 0xFF#8)
      ∧ Undisturbed (base [])
      ∧ Memory.wf (base []).mem ∧ Writable (base []).dev .word 0xFFFFB00F#32 ∧ Writable (base []).dev .quad 0xFFFFB010#32
      ∧ Writable (base []).dev .word 0xFFFFB010#32 ∧ Writable (base []).dev .byte 0xFFFFB010#32
      ∧ Readable (base []).dev .word 0xFFFFB00F#32 ∧ Readable (base []).dev .quad 0xFFFFB010#32
      ∧ Readable (base []).dev .word 0xFFFFB010#32 ∧ Readable (base []).dev .byte 0xFFFFB010#32 :=
  ⟨⟨.store .word (.ind 1#4 0x1FFF#13) 3#4, .memImm32 _ _, .memSimm16 _ _, .memWImm16 _ _, .memBImm8 _ _⟩, .inr rfl, by decide,
    writable_of_check (by decide), writable_of_check (by decide), writable_of_check (by decide),
    writable_of_check (by decide), readable_of_check (by decide), readable_of_check (by decide),
    readable_of_check (by decide), readable_of_check (by decide)⟩

/-- ConditionsAfterCompare and the plain clauses of the shifts and divides: no prefix; CompareWithZero, ExtendedShifts and
LongDivision: the Extend prefix. -/
theorem witness_prefixes :
    (base []).extPending = false ∧ (base []).noflagsPending = false ∧ (extended (base [])).extPending = true := by decide

/-- CompareWithZero, IncrementDecrement and ClearOfMemory: an operand at the end of RAM. -/
theorem witness_unary_operand :
    Undisturbed (base []) ∧ Memory.wf (base []).mem ∧ Readable (base []).dev .quad (eaUop (.addr16 0xDFFC#16) (base []))
      ∧ Writable (base []).dev .quad (eaUop (.addr16 0xDFFC#16) (base []))
      ∧ Writable (base []).dev .byte (eaUop (.ind 1#4 0x3FFF#14) (base [])) :=
  ⟨.inr rfl, by decide, readable_of_check (by decide), writable_of_check (by decide), writable_of_check (by decide)⟩

/-- The divides: a nonzero and a zero divisor, the largest quotient that fits and the smallest that does not, the signed
corner, and an entry that can complete while the SYSEXCP bit is clear. -/
theorem witness_divisions :
    (base []).reg 2#4 ≠ 0#32 ∧ (base []).reg 0#4 = 0#32 ∧ (base []).sysexcp.div0 = false ∧ (base []).sysexcp.divovf = false
      ∧ EntryReady (base []) 8#32 0xFE00#32 ∧ EntryReady (extended (base [])) 8#32 0xFE00#32
      ∧ (base []).reg 3#4 = 0x80000000#32 ∧ (base []).reg 4#4 = 0xFFFFFFFF#32
      ∧ ¬((base []).reg 4#4 = 0x80000000#32 ∧ (base []).reg 3#4 = 0xFFFFFFFF#32)
      ∧ (let s := extended (start 0#32 [] 0#8 [(6#4, 2#32), (7#4, 0xFFFFFFFF#32), (8#4, 3#32)] []);
          (s.reg 6#4).toNat * 2 ^ 32 + (s.reg 7#4).toNat + 1 = (s.reg 8#4).toNat * 2 ^ 32)
      ∧ (let s := extended (start 0#32 [] 0#8 [(6#4, 3#32), (7#4, 0#32), (8#4, 3#32)] []);
          (s.reg 6#4).toNat * 2 ^ 32 + (s.reg 7#4).toNat = (s.reg 8#4).toNat * 2 ^ 32) :=
  ⟨by decide, by decide, by decide, by decide, entryReady_of_check (by decide), entryReady_of_check (by decide), by decide,
    by decide, by decide, by decide, by decide⟩

/-- LongDivision: a quotient of 2^32 with the exception's bit clear, and an entry that can complete. -/
theorem witness_divide_overflow :
    let s := extended { base [] with regs := (base []).regs.set 0 3#32 };
    s.extPending = true ∧ (2#4 ≠ 0#4) ∧ (2#4 : Reg) ≠ 0#4 + 1#4 ∧ s.reg 2#4 ≠ 0#32
      ∧ (s.reg 2#4).toNat * 2 ^ 32 ≤ (s.reg 0#4).toNat * 2 ^ 32 + (s.reg 1#4).toNat
      ∧ s.sysexcp.divovf = false ∧ EntryReady s 8#32 0xFE00#32 :=
  ⟨by decide, by decide, by decide, by decide, by decide, by decide, entryReady_of_check (by decide)⟩

/-- The divides while their SYSEXCP bits are still set. -/
theorem witness_divide_bits_set :
    let s := { base [] with sysexcp := ⟨false, false, true, true, false, []⟩ };
    s.sysexcp.div0 = true ∧ s.sysexcp.divovf = true ∧ s.reg 0#4 = 0#32 := by decide

/-- LoadFromMemory: a postincrement load into another register than its pointer. -/
theorem witness_load :
    Undisturbed (base [])
      ∧ LoadMem.postInc 1#4 ≠ .postInc 0#4 ∧ Readable (base []).dev .word (eaLoad (.postInc 1#4) (base []))
      ∧ Readable (base []).dev .quad (eaLoad (.fp 0x20#6) (base [])) :=
  ⟨.inr rfl, by decide, readable_of_check (by decide), readable_of_check (by decide)⟩

/-- ExtendRegister: the four kinds. -/
theorem witness_extend_register :
    extInstr .ub 0#4 15#4 = some (.extUB 0#4 15#4) ∧ extInstr .uw 1#4 1#4 = some (.extUW 1#4 1#4)
      ∧ extInstr .sb 2#4 3#4 = some (.extSB 2#4 3#4) ∧ extInstr .sw 2#4 3#4 = some (.extSW 2#4 3#4) := by decide

/-- StoreOfRegister and StoreOfImmediate: a predecremented and a postincremented pointer. -/
theorem witness_store :
    Undisturbed (base []) ∧ Memory.wf (base []).mem
      ∧ Writable (base []).dev .quad (eaStore (.preDec 1#4) (storeBefore .quad (.preDec 1#4) (base [])))
      ∧ Writable (base []).dev .word
          (eaStore (destination .postInc 1#4) (storeBefore .word (destination .postInc 1#4) (base [])))
      ∧ StoreOperand (.imm32 0#32) .quad 0#32 ∧ StoreOperand (.simm16 0x8000#16) .quad 0xFFFF8000#32
      ∧ StoreOperand (.wImm16 0x8000#16) .word 0x8000#16 ∧ StoreOperand (.bImm8 0xFF#8) .byte 0xFF#8 :=
  ⟨.inr rfl, by decide, writable_of_check (by decide), writable_of_check (by decide), .imm32 _, .simm16 _, .wImm16 _, .bImm8 _⟩

/-- The pushes, PUSHF, LINK and the calls, and the pops, POPF, UNLINK. -/
theorem witness_stack :
    Undisturbed (base []) ∧ Memory.wf (base []).mem ∧ Writable (base []).dev .byte ((base []).reg spReg - 1#32)
      ∧ Writable (base []).dev .word ((base []).reg spReg - 2#32) ∧ Writable (base []).dev .quad ((base []).reg spReg - 4#32)
      ∧ Readable (base []).dev .quad ((base []).reg spReg) ∧ Readable (base []).dev .byte ((base []).reg spReg + 1#32)
      ∧ Readable (base []).dev .quad ((base []).reg 14#4) ∧ (14#4 : Reg) ≠ spReg :=
  ⟨.inr rfl, by decide, writable_of_check (by decide), writable_of_check (by decide), writable_of_check (by decide),
    readable_of_check (by decide), readable_of_check (by decide), readable_of_check (by decide), by decide⟩

/-- PushOfMany: an empty mask and a full one. -/
theorem witness_push_of_many :
    Undisturbed (base []) ∧ Memory.wf (base []).mem
      ∧ PlainBytes (base []).dev ((base []).reg spReg - BitVec.ofNat 32 (4 * (pushedRegs true 0x00#8).length))
          (4 * (pushedRegs true 0x00#8).length)
      ∧ PlainBytes (base []).dev ((base []).reg spReg - BitVec.ofNat 32 (4 * (pushedRegs true 0xFF#8).length))
          (4 * (pushedRegs true 0xFF#8).length) :=
  ⟨.inr rfl, by decide, plainBytes_of_check (by decide), plainBytes_of_check (by decide)⟩

/-- PopOfMany: an empty mask, every register that may be popped, and a mask with R15. -/
theorem witness_pop_of_many :
    Undisturbed (base [])
      ∧ spReg ∉ poppedRegs true 0x00#8 ∧ spReg ∉ poppedRegs true 0x7F#8 ∧ spReg ∉ poppedRegs false 0xFF#8
      ∧ (∀ j < (poppedRegs true 0x7F#8).length,
          Readable (base []).dev .quad ((base []).reg spReg + BitVec.ofNat 32 (4 * j)))
      ∧ spReg ∈ poppedRegs true 0x80#8 := by
  refine ⟨.inr rfl, by decide, by decide, by decide, ?_, by decide⟩
  intro j hj
  exact readable_of_check (List.all_eq_true.mp
    (show (List.range (poppedRegs true 0x7F#8).length).all (fun j => (bytesFrom 4 ((base []).reg spReg
      + BitVec.ofNat 32 (4 * j))).all (fun b => readStop (base []).dev b == none)) = true by decide)
    j (List.mem_range.mpr hj))

/-- Returns: RET and a plain IRET with an even and an odd quad on the stack, and a chained IRET with either vector. -/
theorem witness_returns :
    Undisturbed (base [])
      ∧ Undisturbed oddTop ∧ Readable (base []).dev .quad ((base []).reg spReg) ∧ Readable (base []).dev .byte ((base []).reg spReg + 5#32)
      ∧ (valueAt .quad ((base []).reg spReg) (base [])).getLsbD 0 = false ∧ flagCirqe (base []).flags = false
      ∧ (valueAt .quad (oddTop.reg spReg) oddTop).getLsbD 0 = true ∧ Readable oddTop.dev .quad (oddTop.reg spReg)
      ∧ Readable oddTop.dev .byte (oddTop.reg spReg + 5#32) ∧ flagCirqe oddTop.flags = false
      ∧ (let s := { base [] with flags := 0x82#8, pending := [⟨9, 0x24#32, false⟩] };
          Undisturbed s ∧ flagCirqe s.flags = true ∧ s.atmCount = 0 ∧ Readable s.dev .quad 0x24#32
          ∧ (∀ k < 4, locate s.dev (0x24#32 + BitVec.ofNat 32 k) ≠ .flags)
          ∧ (valueAt .quad 0x24#32 s).getLsbD 0 = false)
      ∧ (let s := { base [] with flags := 0x82#8, pending := [⟨9, 0x28#32, false⟩] };
          Undisturbed s ∧ flagCirqe s.flags = true ∧ s.atmCount = 0 ∧ Readable s.dev .quad 0x28#32
          ∧ (∀ k < 4, locate s.dev (0x28#32 + BitVec.ofNat 32 k) ≠ .flags)
          ∧ (valueAt .quad 0x28#32 s).getLsbD 0 = true) :=
  ⟨.inr rfl, .inr rfl, readable_of_check (by decide), readable_of_check (by decide), by decide, by decide, by decide,
    readable_of_check (by decide), readable_of_check (by decide), by decide,
    ⟨.inr rfl, by decide, by decide, readable_of_check (by decide), by decide, by decide⟩,
    ⟨.inr rfl, by decide, by decide, readable_of_check (by decide), by decide, by decide⟩⟩

/-- Returns: CIRQE 1 and a request, but an ATM window. -/
theorem witness_return_in_window :
    { base [] with flags := 0x82#8, pending := [⟨9, 0x24#32, false⟩], atmCount := 1 }.atmCount ≠ 0 := by decide

/-- SoftwareTrap: the vectors 40H and 1. -/
theorem witness_software_trap :
    Undisturbed (base []) ∧ EntryReady (base []) (BitVec.ofNat 32 (4 * (0x40#8).toNat)) 0x3000#32
      ∧ EntryReady (base []) (BitVec.ofNat 32 (4 * (0x01#8).toNat)) 0x100#32 :=
  ⟨.inr rfl, entryReady_of_check (by decide), entryReady_of_check (by decide)⟩

/-- IllegalInstruction: the entry, the repeated one, and a debugger break. -/
theorem witness_illegal_instruction :
    (base []).sysexcp.ill = false ∧ (base []).dev.ocdBreaks = false ∧ EntryReady (base []) 8#32 0xFE00#32
      ∧ (let s := { base [] with sysexcp := ⟨false, false, false, false, true, []⟩ };
          s.sysexcp.ill = true ∧ Readable s.dev .quad 8#32 ∧ valueAt .quad 8#32 s = 0xFE00#32)
      ∧ (0xFE00#32).getLsbD 0 = false ∧ onOtherDevice.dev.ocdBreaks = true ∧ onOtherDevice.extPending = false :=
  ⟨by decide, by decide, entryReady_of_check (by decide), ⟨by decide, readable_of_check (by decide), BitVec.eq_of_toNat_eq (by decide)⟩,
    by decide, by decide, by decide⟩

/-- InterruptEntry: a running CPU with IRQE, and a halted and a stopped one with a nonmaskable request inside a window. -/
theorem witness_interrupt_entry :
    (let s := { base [] with pending := [⟨9, 0x24#32, false⟩], spov := 0xFFFFBFFA#32 };
      flagIrqe s.flags = true ∧ (s.runMode = .running ∧ s.atmCount = 0 ∧ s.extPending = false ∧ s.noflagsPending = false)
        ∧ EntryReady s 0x24#32 0x1200#32 ∧ StackAbove s 6 ∧ s.spovReq = false)
      ∧ (let s := { base [] with pending := [⟨9, 0x24#32, false⟩], spov := 0xFFFFBFFB#32 };
          EntryReady s 0x24#32 0x1200#32 ∧ ¬StackAbove s 6)
      ∧ (let s := { base [] with pending := [⟨9, 0x24#32, true⟩], flags := 0x00#8, runMode := .halt, atmCount := 2 };
          flagIrqe s.flags = false ∧ (s.runMode = .halt ∧ s.dev.haltWake = .enter) ∧ EntryReady s 0x24#32 0x1200#32
            ∧ StackAbove s 6 ∧ s.spovReq = false)
      ∧ (let s := { base [] with pending := [⟨9, 0x24#32, true⟩], runMode := .stop, extPending := true };
          (s.runMode = .stop ∧ s.dev.stopWake = .enter) ∧ EntryReady s 0x24#32 0x1200#32 ∧ StackAbove s 6
            ∧ s.spovReq = false) :=
  ⟨⟨by decide, by decide, entryReady_of_check (by decide), by unfold StackAbove; decide, by decide⟩,
    ⟨entryReady_of_check (by decide), by unfold StackAbove; decide⟩,
    ⟨by decide, by decide, entryReady_of_check (by decide), by unfold StackAbove; decide, by decide⟩,
    ⟨by decide, entryReady_of_check (by decide), by unfold StackAbove; decide, by decide⟩⟩

/-- WaitingModes: nothing presented, a masked request, a device with each of the two other rules, and the debugger break. -/
theorem witness_waiting_modes :
    { base [] with runMode := .halt }.pending = []
      ∧ (∃ q qs, { base [] with runMode := .stop, flags := 0x00#8, pending := [⟨9, 0x24#32, false⟩] }.pending = q :: qs
          ∧ flagIrqe 0x00#8 = false ∧ q.nonmaskable = false)
      ∧ (let s := { onOtherDevice with runMode := .stop }; s.runMode = .stop ∧ s.dev.stopWake = .stay)
      ∧ (let s := { onOtherDevice with runMode := .halt, pending := [⟨9, 0x24#32, false⟩] };
          (s.runMode = .halt ∧ s.dev.haltWake = .reset)
            ∧ ∃ q qs, s.pending = q :: qs ∧ (flagIrqe s.flags = true ∨ q.nonmaskable = true))
      ∧ { base [] with runMode := .debugBreak }.runMode = .debugBreak :=
  ⟨by decide, ⟨_, _, rfl, by decide, rfl⟩, by decide, ⟨by decide, _, _, rfl, by decide⟩, by decide⟩

/-- StackOverflow: instructions that run and write R15 once, after a store, more often, and not at all. -/
theorem witness_sp_writes :
    Undisturbed (base [])
      ∧ (∃ t, exec (.ldSimm8 15#4 0x7F#8) (base []) = .next t) ∧ WritesSpOnce (base []) (.ldSimm8 15#4 0x7F#8)
      ∧ (∃ t, exec (.ldPostImm32 15#4 0#32) (base []) = .next t) ∧ WritesSpAfterStore (.ldPostImm32 15#4 0#32)
      ∧ (∃ t, exec (.pushmHi 0x00#8) (base []) = .next t) ∧ MayWriteSpOften (.pushmHi 0x00#8)
      ∧ ∃ t, exec .nop (base []) = .next t :=
  ⟨.inr rfl, ⟨_, rfl⟩, .ldSimm8 _, ⟨_, rfl⟩, .storeImm (.imm32 0#32), ⟨_, rfl⟩, .pushmHi _, ⟨_, rfl⟩⟩

/-- StackOverflow: a request with SPOVF 0 and an entry that can complete, and one with SPOVF 1. -/
theorem witness_stack_overflow :
    (let s := { base [] with spovReq := true };
      s.spovReq = true ∧ s.sysexcp.spovf = false ∧ EntryReady s 8#32 0xFE00#32)
      ∧ { base [] with spovReq := true, sysexcp := ⟨false, true, false, false, false, []⟩ }.sysexcp.spovf = true :=
  ⟨⟨by decide, by decide, entryReady_of_check (by decide)⟩, by decide⟩

/-- PcOverflow: a PC one word above PCOV. -/
theorem witness_pc_overflow :
    let s := { base [0xFFFE#16] with pcov := 0xFFF#32 };
    s.runMode = .running ∧ boundaryRequest s = none ∧ Fetchable s ∧ s.pcov.toNat < s.pc.toNat ∧ s.sysexcp.pcovf = false
      ∧ EntryReady s 8#32 0xFE00#32 ∧ StackAbove s 6 ∧ s.spovReq = false :=
  ⟨by decide, by decide, fetchable_of_check (by decide), by decide, by decide, entryReady_of_check (by decide),
    by unfold StackAbove; decide, by decide⟩

/-- UnimplementedWordTraps: 0900H, the first of its range, and behind the Extend prefix FFF6H, the last of its range. -/
theorem witness_unimplemented_word :
    (let s := base [0x0900#16];
      s.runMode = .running ∧ boundaryRequest s = none ∧ Fetchable s ∧ pcOverflows s = false
        ∧ decode s.extPending (instrBytes s) = .whole (.illegal (wordAtPc s)) ∧ s.sysexcp.ill = false
        ∧ EntryReady s 8#32 0xFE00#32 ∧ StackAbove s 6 ∧ s.spovReq = false)
      ∧ (let s := extended (base [0xFFF6#16]);
          s.runMode = .running ∧ boundaryRequest s = none ∧ Fetchable s ∧ pcOverflows s = false
            ∧ decode s.extPending (instrBytes s) = .whole (.illegal (wordAtPc s)) ∧ s.sysexcp.ill = false
            ∧ EntryReady s 8#32 0xFE00#32 ∧ StackAbove s 6 ∧ s.spovReq = false) :=
  ⟨⟨by decide, by decide, fetchable_of_check (by decide), by decide, by decide, by decide,
      entryReady_of_check (by decide), by unfold StackAbove; decide, by decide⟩,
    ⟨by decide, by decide, fetchable_of_check (by decide), by decide, by decide, by decide,
      entryReady_of_check (by decide), by unfold StackAbove; decide, by decide⟩⟩

end Sys2Proof.Tests
end

