-- ==== Sys2Proof/Proofs/UnimplementedWords.lean ====
section
/-! The unimplemented values of word 0 (R177). One lemma per part of the opcode map says, in the hexadecimal digits of
word 0, where that part has no row; `decodeRow_eq_none_iff` puts them together, and the value of a word is read from its
digits at the end. -/

namespace Sys2Proof

/-! ### The digits of a word -/

theorem nib3_toNat (w : Word) : (nib3 w).toNat = w.toNat / 4096 := by
  simp only [nib3, BitVec.extractLsb'_toNat, Nat.shiftRight_eq_div_pow]
  omega

theorem nib2_toNat (w : Word) : (nib2 w).toNat = w.toNat / 256 % 16 := by
  simp only [nib2, BitVec.extractLsb'_toNat, Nat.shiftRight_eq_div_pow]

theorem nib1_toNat (w : Word) : (nib1 w).toNat = w.toNat / 16 % 16 := by
  simp only [nib1, BitVec.extractLsb'_toNat, Nat.shiftRight_eq_div_pow]

theorem nib0_toNat (w : Word) : (nib0 w).toNat = w.toNat % 16 := by
  simp [nib0]

theorem low8_toNat (w : Word) : (low8 w).toNat = w.toNat % 256 := by
  simp [low8]

/-! ### The parts of the map that every word 0 fills -/

theorem decode03_ne_none (w0 w1 w2 : Word) : decode03 w0 w1 w2 ≠ none := by
  simp only [decode03]
  split <;> exact Option.some_ne_none _

theorem decodePostInc_ne_none (k : LoadKind) (w0 : Word) : decodePostInc k w0 ≠ none := by
  unfold decodePostInc
  split <;> exact Option.some_ne_none _

theorem decode1_ne_none (w0 : Word) : decode1 w0 ≠ none := by
  unfold decode1
  split <;> simp [decodePostInc_ne_none]

theorem decode5_ne_none (w0 : Word) : decode5 w0 ≠ none := by
  unfold decode5
  split <;> exact Option.some_ne_none _

theorem decode6_ne_none (w0 : Word) : decode6 w0 ≠ none := Option.some_ne_none _

theorem decode7_ne_none (w0 w1 w2 : Word) : decode7 w0 w1 w2 ≠ none := by
  simp only [decode7]
  split
  · split <;> exact Option.some_ne_none _
  · split <;> exact Option.some_ne_none _

/-! ### The parts with gaps -/

theorem decode00_eq_none_iff (w0 w1 : Word) :
    decode00 w0 w1 = none ↔
      ((nib1 w0).toNat = 0 ∧ ((nib0 w0).toNat = 6 ∨ 8 ≤ (nib0 w0).toNat)) ∨ (nib1 w0).toNat = 1 ∨ 4 ≤ (nib1 w0).toNat := by
  unfold decode00
  split
  · split <;> grind
  · split <;> grind
  · grind
  · grind

theorem decode09_eq_none_iff (w0 w1 w2 : Word) : decode09 w0 w1 w2 = none ↔ (nib1 w0).toNat < 4 := by
  have hlt := (nib1 w0).isLt
  unfold decode09
  split <;> grind

theorem decode0_eq_none_iff (w0 w1 w2 : Word) :
    decode0 w0 w1 w2 = none ↔
      ((nib2 w0).toNat = 0 ∧ decode00 w0 w1 = none) ∨ (nib2 w0).toNat = 2 ∨
        ((nib2 w0).toNat = 9 ∧ (nib1 w0).toNat < 4) := by
  have hlt := (nib2 w0).isLt
  unfold decode0
  split <;> grind [decode03_ne_none, decode09_eq_none_iff]

theorem decode4_eq_none_iff (w0 w1 w2 : Word) :
    decode4 w0 w1 w2 = none ↔
      ((nib2 w0).toNat = 5 ∧ 6 ≤ (nib1 w0).toNat) ∨ (nib2 w0).toNat = 6 ∨ (nib2 w0).toNat = 7 := by
  have hlt := (nib2 w0).isLt
  unfold decode4
  split
  case h_6 => split <;> grind
  all_goals grind

theorem decodeAD_eq_none_iff (w0 w1 w2 : Word) : decodeAD w0 w1 w2 = none ↔ (nib1 w0).toNat = 8 := by
  unfold decodeAD
  split <;> grind

theorem decodeA_eq_none_iff (w0 w1 w2 : Word) :
    decodeA w0 w1 w2 = none ↔
      (nib2 w0).toNat = 8 ∨ (nib2 w0).toNat = 9 ∨ ((nib2 w0).toNat = 0xD ∧ (nib1 w0).toNat = 8) := by
  unfold decodeA
  split <;> grind [decodeAD_eq_none_iff]

theorem decodeB_eq_none_iff (w0 : Word) : decodeB w0 = none ↔ (nib2 w0).toNat = 3 := by
  unfold decodeB
  split <;> grind

theorem decodeFF_eq_none_iff (w0 : Word) : decodeFF w0 = none ↔ (low8 w0).toNat < 0xF7 := by
  have hlt := (low8 w0).isLt
  unfold decodeFF
  split <;> grind

theorem decodeF_eq_none_iff (w0 w1 w2 : Word) :
    decodeF w0 w1 w2 = none ↔
      ((nib2 w0).toNat = 2 ∧ (((nib1 w0).toNat = 3 ∧ 2 ≤ (nib0 w0).toNat) ∨ 4 ≤ (nib1 w0).toNat)) ∨
        (3 ≤ (nib2 w0).toNat ∧ (nib2 w0).toNat < 0xD) ∨ ((nib2 w0).toNat = 0xF ∧ (low8 w0).toNat < 0xF7) := by
  have hlt := (nib2 w0).isLt
  unfold decodeF
  split
  case h_3 =>
    split
    case h_4 => split <;> grind
    all_goals grind
  all_goals grind [decodeFF_eq_none_iff]

/-! ### The whole map -/

theorem decodeRow_eq_none_iff (w0 w1 w2 : Word) :
    decodeRow w0 w1 w2 = none ↔
      ((nib3 w0).toNat = 0x0 ∧ decode0 w0 w1 w2 = none) ∨ ((nib3 w0).toNat = 0x4 ∧ decode4 w0 w1 w2 = none) ∨
        ((nib3 w0).toNat = 0xA ∧ decodeA w0 w1 w2 = none) ∨ ((nib3 w0).toNat = 0xB ∧ decodeB w0 = none) ∨
        ((nib3 w0).toNat = 0xF ∧ decodeF w0 w1 w2 = none) := by
  have hlt := (nib3 w0).isLt
  unfold decodeRow
  split <;> grind [decode1_ne_none, decode5_ne_none, decode6_ne_none, decode7_ne_none]

/-! ### The gaps as ranges of word 0 -/

/-- 0000H to 0FFFH: the gaps around the prefixes and the PC-relative loads, at 02xxH, and before the stores of an
immediate (R140 to R152). -/
theorem decode0_gaps (w0 w1 w2 : Word) :
    (nib3 w0).toNat = 0x0 ∧ decode0 w0 w1 w2 = none ↔
      w0.toNat = 0x0006 ∨ (0x0008 ≤ w0.toNat ∧ w0.toNat ≤ 0x001F) ∨ (0x0040 ≤ w0.toNat ∧ w0.toNat ≤ 0x00FF) ∨
        (0x0200 ≤ w0.toNat ∧ w0.toNat ≤ 0x02FF) ∨ (0x0900 ≤ w0.toNat ∧ w0.toNat ≤ 0x093F) := by
  rw [decode0_eq_none_iff, decode00_eq_none_iff, nib3_toNat, nib2_toNat, nib1_toNat, nib0_toNat]
  omega

/-- 4000H to 4FFFH: all after NEG up to the indexed loads (R157 to R162). -/
theorem decode4_gaps (w0 w1 w2 : Word) :
    (nib3 w0).toNat = 0x4 ∧ decode4 w0 w1 w2 = none ↔
      (0x4560 ≤ w0.toNat ∧ w0.toNat ≤ 0x45FF) ∨ (0x4600 ≤ w0.toNat ∧ w0.toNat ≤ 0x47FF) := by
  rw [decode4_eq_none_iff, nib3_toNat, nib2_toNat, nib1_toNat]
  omega

/-- A000H to AFFFH: the gap after TCM of two registers, and the one after the operations on a quad in memory with simm16 (R168 to R173). -/
theorem decodeA_gaps (w0 w1 w2 : Word) :
    (nib3 w0).toNat = 0xA ∧ decodeA w0 w1 w2 = none ↔
      (0xA800 ≤ w0.toNat ∧ w0.toNat ≤ 0xA9FF) ∨ (0xAD80 ≤ w0.toNat ∧ w0.toNat ≤ 0xAD8F) := by
  rw [decodeA_eq_none_iff, nib3_toNat, nib2_toNat, nib1_toNat]
  omega

/-- B000H to BFFFH: between the multiplies and the shifts (R173, R174). -/
theorem decodeB_gaps (w0 : Word) :
    (nib3 w0).toNat = 0xB ∧ decodeB w0 = none ↔ 0xB300 ≤ w0.toNat ∧ w0.toNat ≤ 0xB3FF := by
  rw [decodeB_eq_none_iff, nib3_toNat, nib2_toNat]
  omega

/-- F000H to FFFFH: from the absolute calls to DJNZ, and before the one-word controls (R176). -/
theorem decodeF_gaps (w0 w1 w2 : Word) :
    (nib3 w0).toNat = 0xF ∧ decodeF w0 w1 w2 = none ↔
      (0xF232 ≤ w0.toNat ∧ w0.toNat ≤ 0xF2FF) ∨ (0xF300 ≤ w0.toNat ∧ w0.toNat ≤ 0xFCFF) ∨
        (0xFF00 ≤ w0.toNat ∧ w0.toNat ≤ 0xFFF6) := by
  rw [decodeF_eq_none_iff, nib3_toNat, nib2_toNat, nib1_toNat, nib0_toNat, low8_toNat]
  omega

/-! ### Illegal words -/

/-- No instruction becomes an illegal word behind the Extend prefix (R182, R531). -/
theorem decodeExtended_ne_illegal (w0 : Word) (i : Instr) (w : Word) : decodeExtended w0 i ≠ .illegal w := by
  unfold decodeExtended
  split
  case h_5 => split <;> simp
  case h_6 => split <;> simp
  all_goals simp

theorem decodeWords_eq_illegal_iff (ext : Bool) (w0 w1 w2 : Word) :
    decodeWords ext w0 w1 w2 = .illegal w0 ↔ decodeRow w0 w1 w2 = none := by
  unfold decodeWords
  cases decodeRow w0 w1 w2 with
  | none => simp
  | some i => cases ext <;> simp [decodeExtended_ne_illegal]

/-- Settles O3: the Extend latch does not matter, a word is illegal where the opcode map has no row, and the digits of word 0
say where that is. -/
theorem unimplementedWords : Obligations.UnimplementedWords := by
  unfold Obligations.UnimplementedWords
  intro ext w0 w1 w2
  simp only [decodeWords_eq_illegal_iff, decodeRow_eq_none_iff, decode0_gaps, decode4_gaps, decodeA_gaps, decodeB_gaps,
    decodeF_gaps, or_assoc]

end Sys2Proof
end

