-- ==== Sys2Proof/Proofs/RegisterResults.lean ====
section
/-! What an operation leaves that writes a register and the condition flags: the frame of each of the two writes, how
frames compose, and FLAGS after the write as the statements spell it. The last part decodes an instruction of one word. -/

namespace Sys2Proof.Claims

open Sys2Proof.Machine

/-! ### Frames -/

/-- A byte of the address space comes from memory or from a control register (R83): where those stay, all but FLAGS reads
as before. -/
theorem readsSame_of_mem {s t : State} (hmem : t.mem = s.mem) (hdev : t.dev = s.dev) (hc : SameControl s t) :
    ReadsSame s t := by
  intro a ha
  unfold byteAt
  rw [hdev, hmem, hc.pcov, hc.spov, hc.dmabw, hc.sysexcp]
  cases hl : locate s.dev a
  case flags => exact absurd hl ha
  all_goals rfl

theorem SameControl.trans {s t u : State} (h : SameControl s t) (h' : SameControl t u) : SameControl s u where
  pcov := h'.pcov.trans h.pcov
  spov := h'.spov.trans h.spov
  dmabw := h'.dmabw.trans h.dmabw
  sysexcp := h'.sysexcp.trans h.sysexcp

theorem SameLatches.trans {s t u : State} (h : SameLatches s t) (h' : SameLatches t u) : SameLatches s u where
  ext := h'.ext.trans h.ext
  noflags := h'.noflags.trans h.noflags

theorem SameMachine.trans {s t u : State} (h : SameMachine s t) (h' : SameMachine t u) : SameMachine s u where
  atmCount := h'.atmCount.trans h.atmCount
  pending := h'.pending.trans h.pending
  runMode := h'.runMode.trans h.runMode
  wdtEnabled := h'.wdtEnabled.trans h.wdtEnabled
  wdtCounter := h'.wdtCounter.trans h.wdtCounter
  dmaPlan := h'.dmaPlan.trans h.dmaPlan
  dmaSeen := h'.dmaSeen.trans h.dmaSeen
  dev := h'.dev.trans h.dev

/-- Frames in sequence: the registers that may differ are those of both. -/
theorem OnlyRegs.trans {rs qs : List Reg} {s t u : State} (h : OnlyRegs rs s t) (h' : OnlyRegs qs t u) :
    OnlyRegs (rs ++ qs) s u where
  regs q hq := by
    rw [List.mem_append, not_or] at hq
    exact (h'.regs q hq.2).trans (h.regs q hq.1)
  bytes a ha := (h'.bytes a (h.machine.dev ▸ ha)).trans (h.bytes a ha)
  control := h.control.trans h'.control
  latches := h.latches.trans h'.latches
  machine := h.machine.trans h'.machine
  request hsp := by
    rw [List.mem_append, not_or] at hsp
    exact (h'.request hsp.2).trans (h.request hsp.1)

theorem onlyRegs_writeReg (s : State) (r : Reg) (v : Quad) : OnlyRegs [r] s (s.writeReg r v) where
  regs q hq := reg_writeReg_other s v (List.ne_of_not_mem_cons hq)
  bytes := readsSame_of_mem rfl rfl ⟨rfl, rfl, rfl, rfl⟩
  control := ⟨rfl, rfl, rfl, rfl⟩
  latches := ⟨rfl, rfl⟩
  machine := ⟨rfl, rfl, rfl, rfl, rfl, rfl, rfl, rfl⟩
  request hsp := by
    have hr : (r == spReg) = false := beq_false_of_ne (List.ne_of_not_mem_cons hsp).symm
    rw [writeReg_spovReq, hr, Bool.false_and, Bool.or_false]

theorem sameControl_setFlags (s : State) (p : FlagPatch) : SameControl s (s.setFlags p) := by
  constructor <;> simp

theorem onlyRegs_setFlags (s : State) (p : FlagPatch) : OnlyRegs [] s (s.setFlags p) where
  regs q _ := setFlags_reg s p q
  bytes := readsSame_of_mem (setFlags_mem s p) (setFlags_dev s p) (sameControl_setFlags s p)
  control := sameControl_setFlags s p
  latches := by constructor <;> simp
  machine := by constructor <;> simp
  request _ := setFlags_spovReq s p

/-- A register and the condition flags are written: it remains to say what FLAGS is. -/
theorem after_writeReg_setFlags {s : State} {r : Reg} {v : Quad} {p : FlagPatch} {flags : Byte}
    (hf : (s.setFlags p).flags = flags) : After [r] flags s ((s.writeReg r v).setFlags p) where
  only := (onlyRegs_writeReg s r v).trans (onlyRegs_setFlags (s.writeReg r v) p)
  flags := by rw [← hf, setFlags_flags, setFlags_flags, writeReg_noflagsPending, writeReg_flags]
  pc := setFlags_pc (s.writeReg r v) p

/-! ### Flags as the statements spell them -/

theorem isZero_eq_beq {n : Nat} (v : BitVec n) : isZero v = (v == 0#n) := by
  rw [isZero, Bool.eq_iff_iff, decide_eq_true_iff, beq_iff_eq, BitVec.toNat_eq, BitVec.toNat_zero]

theorem isNegative_eq_msb {n : Nat} (v : BitVec n) : isNegative v = v.msb := BitVec.msb_eq_toInt.symm

section
variable (c z n v b f1 cirqe irqe : Bool)

@[simp] theorem flagC_flagsByte : flagC (flagsByte c z n v b f1 cirqe irqe) = c := by
  unfold flagsByte flagC
  repeat rw [BitVec.getLsbD_append]
  simp

@[simp] theorem flagZ_flagsByte : flagZ (flagsByte c z n v b f1 cirqe irqe) = z := by
  unfold flagsByte flagZ
  repeat rw [BitVec.getLsbD_append]
  simp

@[simp] theorem flagS_flagsByte : flagS (flagsByte c z n v b f1 cirqe irqe) = n := by
  unfold flagsByte flagS
  repeat rw [BitVec.getLsbD_append]
  simp

@[simp] theorem flagV_flagsByte : flagV (flagsByte c z n v b f1 cirqe irqe) = v := by
  unfold flagsByte flagV
  repeat rw [BitVec.getLsbD_append]
  simp

@[simp] theorem flagB_flagsByte : flagB (flagsByte c z n v b f1 cirqe irqe) = b := by
  unfold flagsByte flagB
  repeat rw [BitVec.getLsbD_append]
  simp

@[simp] theorem flagF1_flagsByte : flagF1 (flagsByte c z n v b f1 cirqe irqe) = f1 := by
  unfold flagsByte flagF1
  repeat rw [BitVec.getLsbD_append]
  simp

@[simp] theorem flagCirqe_flagsByte : flagCirqe (flagsByte c z n v b f1 cirqe irqe) = cirqe := by
  unfold flagsByte flagCirqe
  repeat rw [BitVec.getLsbD_append]
  simp

@[simp] theorem flagIrqe_flagsByte : flagIrqe (flagsByte c z n v b f1 cirqe irqe) = irqe := by
  unfold flagsByte flagIrqe
  repeat rw [BitVec.getLsbD_append]
  simp

end

/-- A flag of a patch is its value where it gives one, else the flag of the FLAGS it is applied to (R47, R49). -/
theorem applyPatch_eq_flagsByte (p : FlagPatch) (f : Byte) :
    applyPatch p f = flagsByte (p.c.getD (flagC f)) (p.z.getD (flagZ f)) (p.s.getD (flagS f)) (p.v.getD (flagV f))
      (p.b.getD (flagB f)) (flagF1 f) (flagCirqe f) (flagIrqe f) := by
  apply byte_eq_of_bits
  · exact (flagC_applyPatch p f).trans (flagC_flagsByte ..).symm
  · exact (flagZ_applyPatch p f).trans (flagZ_flagsByte ..).symm
  · exact (flagS_applyPatch p f).trans (flagS_flagsByte ..).symm
  · exact (flagV_applyPatch p f).trans (flagV_flagsByte ..).symm
  · exact (flagB_applyPatch p f).trans (flagB_flagsByte ..).symm
  · exact (flagF1_applyPatch p f).trans (flagF1_flagsByte ..).symm
  · exact (flagCirqe_applyPatch p f).trans (flagCirqe_flagsByte ..).symm
  · exact (flagIrqe_applyPatch p f).trans (flagIrqe_flagsByte ..).symm

theorem setFlags_flags_eq_resultFlags (s : State) (p : FlagPatch) :
    (s.setFlags p).flags = resultFlags s (p.c.getD (flagC s.flags)) (p.z.getD (flagZ s.flags))
      (p.s.getD (flagS s.flags)) (p.v.getD (flagV s.flags)) (p.b.getD (flagB s.flags)) s.flags := by
  rw [setFlags_flags, applyPatch_eq_flagsByte, resultFlags]

/-- FLAGS after the subtraction of operands of n bits, with Z sticky or not (R201, R202). -/
theorem setFlags_arithPatch_subFlags {n : Nat} (hn : 0 < n) (s : State) (a b : BitVec n) (bin sticky zOld blank : Bool) :
    (s.setFlags (arithPatch (subFlags a b bin) sticky zOld blank)).flags
      = differenceFlags s a b (carryNat bin) (subFlags a b bin).r
          (if sticky then zOld && isZero (subFlags a b bin).r else isZero (subFlags a b bin).r) blank s.flags := by
  have hv := subFlags_v hn a b bin
  have hz : (subFlags a b bin).z = isZero (subFlags a b bin).r := (isZero_eq_beq _).symm
  have hs : (subFlags a b bin).s = isNegative (subFlags a b bin).r := (isNegative_eq_msb _).symm
  rw [setFlags_flags_eq_resultFlags]
  simp only [arithPatch, Option.getD_some, hv, hz, hs]
  rfl

theorem setFlags_comPatch (s : State) (a r : Quad) :
    (s.setFlags (comPatch a r)).flags
      = resultFlags s false (isZero r) (isNegative r) false (isZero a) s.flags := by
  rw [setFlags_flags_eq_resultFlags, isZero_eq_beq, isZero_eq_beq, isNegative_eq_msb]
  rfl

theorem setFlags_productPatch {n : Nat} (s : State) (r : BitVec n) (v : Bool) :
    (s.setFlags (productPatch r v)).flags = productFlags s r v := by
  rw [setFlags_flags_eq_resultFlags, productFlags, isZero_eq_beq, isNegative_eq_msb]
  rfl

/-! ### Decoding one word -/

theorem bytesToWords_wordBytes (w : Word) : bytesToWords (wordBytes w) = [w] := by
  have hw : w.extractLsb' 8 8 ++ w.extractLsb' 0 8 = w := by
    rw [BitVec.extractLsb'_append_extractLsb'_eq_extractLsb' (by decide), BitVec.extractLsb'_eq_self]
  simp [wordBytes, bytesToWords, hw]

/-- An instruction that its encoding and the opcode map give the same single word is what that word decodes to (R121,
R122). -/
theorem decodesTo_word {i : Instr} {w : Word} (hlen : Laws.EncodeLength.Statement i) (henc : encode i = [w])
    (hrow : decodeRow w 0#16 0#16 = some i) : DecodesTo [w] i := by
  have hone : instrWords w = 1 := by
    rw [Laws.EncodeLength.Statement, henc] at hlen
    exact hlen.symm
  have hwords : decodeWords false w 0#16 0#16 = .instr i := by rw [decodeWords, hrow]; rfl
  simp [DecodesTo, decode, bytesToWords_wordBytes, hone, hwords]

end Sys2Proof.Claims
end

