-- ==== Sys2Proof/Proofs/RegisterArithmetic.lean ====
section
/-! NEG, COM and MUL: each writes its result to Rd and sets flags from it, so its frame and its flags are those of
`after_writeReg_setFlags`, and what is its own is the result. -/

namespace Sys2Proof.Claims

open Sys2Proof.Machine

/-! ### NEG and COM -/

theorem exec_neg (rd : Reg) (s : State) :
    exec (.neg rd) s = .next ((s.writeReg rd (subFlags 0#32 (s.reg rd) false).r).setFlags
      (arithPatch (subFlags 0#32 (s.reg rd) false) false false (blank1 (s.reg rd)))) := rfl

theorem exec_com (rd : Reg) (s : State) :
    exec (.com rd) s =
      .next ((s.writeReg rd (~~~s.reg rd)).setFlags (comPatch (s.reg rd) (~~~s.reg rd))) := rfl

/-- NEG is the subtraction 0 - Rd without a borrow, its Blank flag that of Rd alone (R222). -/
theorem neg_result (rd : Reg) (s : State) :
    ∃ t, exec (.neg rd) s = .next t ∧ IsDifference 0#32 (s.reg rd) 0 (t.reg rd)
      ∧ After [rd] (differenceFlags s 0#32 (s.reg rd) 0 (t.reg rd) (isZero (t.reg rd)) (isZero (s.reg rd)) s.flags)
          s t := by
  refine ⟨_, exec_neg rd s, ?_⟩
  rw [setFlags_reg, reg_writeReg_same, isZero_eq_beq (s.reg rd)]
  exact ⟨subFlags_r (by decide) 0#32 (s.reg rd) false,
    after_writeReg_setFlags (setFlags_arithPatch_subFlags (by decide) s 0#32 (s.reg rd) false false false _)⟩

theorem com_result (rd : Reg) (s : State) :
    ∃ t, exec (.com rd) s = .next t ∧ (∀ i < 32, (t.reg rd).getLsbD i = !(s.reg rd).getLsbD i)
      ∧ After [rd] (resultFlags s false (isZero (t.reg rd)) (isNegative (t.reg rd)) false (isZero (s.reg rd)) s.flags)
          s t := by
  refine ⟨_, exec_com rd s, ?_⟩
  rw [setFlags_reg, reg_writeReg_same]
  refine ⟨fun i hi => ?_, after_writeReg_setFlags (setFlags_comPatch s (s.reg rd) (~~~s.reg rd))⟩
  rw [BitVec.getLsbD_not, decide_eq_true hi, Bool.true_and]

theorem decodeRow_neg (rd : Reg) (w1 w2 : Word) : decodeRow (0x455#12 ++ rd) w1 w2 = some (.neg rd) := by
  simp [decodeRow, decode4]

theorem decodeRow_com (rd : Reg) (w1 w2 : Word) : decodeRow (0x454#12 ++ rd) w1 w2 = some (.com rd) := by
  simp [decodeRow, decode4]

/-- Settles O26: the results and frames of NEG and COM, and the row of the opcode map for the word of each. -/
theorem negateAndComplement : Obligations.NegateAndComplement :=
  ⟨neg_result, com_result, fun rd =>
    ⟨decodesTo_word (Laws.EncodeLength.neg rd) rfl (decodeRow_neg rd _ _),
      decodesTo_word (Laws.EncodeLength.com rd) rfl (decodeRow_com rd _ _)⟩⟩

/-! ### MUL -/

theorem exec_mul (rd rs : Reg) (s : State) :
    exec (.mul rd rs) s =
      .next ((s.writeReg rd (s.reg rd * s.reg rs)).setFlags (productPatch (s.reg rd * s.reg rs) false)) := rfl

/-- Both factors are read before Rd is written, so Rs may be Rd (R230). -/
theorem mul_result (rd rs : Reg) (s : State) :
    ∃ t, exec (.mul rd rs) s = .next t ∧ (t.reg rd).toNat = (s.reg rd).toNat * (s.reg rs).toNat % 2 ^ 32
      ∧ After [rd] (productFlags s (t.reg rd) false) s t := by
  refine ⟨_, exec_mul rd rs s, ?_⟩
  rw [setFlags_reg, reg_writeReg_same]
  exact ⟨BitVec.toNat_mul (s.reg rd) (s.reg rs),
    after_writeReg_setFlags (setFlags_productPatch s (s.reg rd * s.reg rs) false)⟩

theorem decodeRow_mul (rd rs : Reg) (w1 w2 : Word) : decodeRow (0xB2#8 ++ rs ++ rd) w1 w2 = some (.mul rd rs) := by
  simp [decodeRow, decodeB]

/-- Settles O27: the product with its frame, and the row of the opcode map for its word. -/
theorem multiplication : Obligations.Multiplication := fun rd rs s =>
  ⟨mul_result rd rs s, decodesTo_word (Laws.EncodeLength.mul rd rs) rfl (decodeRow_mul rd rs _ _)⟩

end Sys2Proof.Claims
end

