-- ==== Sys2Proof/Proofs/LoadResults.lean ====
section
/-! LD of a value, LEA and EXT. The loads and LEA write one register and nothing else, so that all that is their own is the
value; EXT sets flags as well. The first part decodes an instruction of any number of words. -/

namespace Sys2Proof.Claims

open Sys2Proof.Machine

/-! ### Decoding the words of an instruction -/

theorem bytesToWords_flatMap_wordBytes (ws : List Word) : bytesToWords (ws.flatMap wordBytes) = ws := by
  induction ws with
  | nil => rfl
  | cons w ws ih =>
    have hw : w.extractLsb' 8 8 ++ w.extractLsb' 0 8 = w := (List.cons.inj (bytesToWords_wordBytes w)).1
    simp [wordBytes, bytesToWords, hw, ih]

/-- Words decode to the row of the opcode map that they match, where they are no fewer than word 0 says (R121, R122). -/
theorem decodesTo_of_row {i : Instr} {w0 : Word} {ws : List Word} (hlen : instrWords w0 ≤ ws.length + 1)
    (hrow : decodeRow w0 (ws.getD 0 0#16) (ws.getD 1 0#16) = some i) : DecodesTo (w0 :: ws) i := by
  have hwords : decodeWords false w0 (ws.getD 0 0#16) (ws.getD 1 0#16) = .instr i := by rw [decodeWords, hrow]; rfl
  rw [DecodesTo, decode, bytesToWords_flatMap_wordBytes]
  simp only [if_neg (Nat.not_lt.2 hlen), hwords]

/-! ### One register written -/

theorem after_writeReg (s : State) (r : Reg) (v : Quad) : After [r] s.flags s (s.writeReg r v) where
  only := onlyRegs_writeReg s r v
  flags := rfl
  pc := rfl

/-- An instruction that writes one register: it remains to say what the value is. -/
theorem exec_writesReg {i : Instr} {rd : Reg} {v : Quad} {s : State} (P : Quad → Prop)
    (hexec : exec i s = .next (s.writeReg rd v)) (hv : P v) :
    ∃ t, exec i s = .next t ∧ P (t.reg rd) ∧ After [rd] s.flags s t :=
  ⟨_, hexec, (reg_writeReg_same s rd v).symm ▸ hv, after_writeReg s rd v⟩

/-! ### LD of a value -/

theorem ldSimm8_result (rd : Reg) (imm : BitVec 8) (s : State) :
    ∃ t, exec (.ldSimm8 rd imm) s = .next t ∧ (t.reg rd).toInt = imm.toInt ∧ After [rd] s.flags s t :=
  exec_writesReg (fun q => q.toInt = imm.toInt) rfl (BitVec.toInt_signExtend_of_le (by decide))

theorem ldSimm17_result (rd : Reg) (imm : BitVec 17) (s : State) :
    ∃ t, exec (.ldSimm17 rd imm) s = .next t ∧ (t.reg rd).toInt = imm.toInt ∧ After [rd] s.flags s t :=
  exec_writesReg (fun q => q.toInt = imm.toInt) rfl (BitVec.toInt_signExtend_of_le (by decide))

theorem ldCc_result (cc : CC) (rd : Reg) (s : State) :
    ∃ t, exec (.ldCc cc rd) s = .next t ∧ (t.reg rd).toNat = (if cond cc s.flags then 1 else 0)
      ∧ After [rd] s.flags s t :=
  exec_writesReg (fun q => q.toNat = if cond cc s.flags then 1 else 0) rfl (by cases cond cc s.flags <;> rfl)

theorem ldes_result (rd : Reg) (s : State) :
    ∃ t, exec (.ldes rd) s = .next t ∧ (t.reg rd).toInt = (if flagS s.flags then -1 else 0)
      ∧ After [rd] s.flags s t :=
  exec_writesReg (fun q => q.toInt = if flagS s.flags then -1 else 0) rfl (by cases flagS s.flags <;> rfl)

theorem decodeRow_ldSimm8 (rd : Reg) (imm : BitVec 8) (w1 w2 : Word) :
    decodeRow (0x3#4 ++ rd ++ imm) w1 w2 = some (.ldSimm8 rd imm) := by
  simp [decodeRow]

theorem decodeRow_ldReg (rd rs : Reg) (w1 w2 : Word) : decodeRow (0x44#8 ++ rs ++ rd) w1 w2 = some (.ldReg rd rs) := by
  simp [decodeRow, decode4]

theorem decodeRow_ldCc (cc : CC) (rd : Reg) (w1 w2 : Word) :
    decodeRow (0x01#8 ++ cc ++ rd) w1 w2 = some (.ldCc cc rd) := by
  simp [decodeRow, decode0]

theorem decodeRow_ldes (rd : Reg) (w1 w2 : Word) : decodeRow (0x453#12 ++ rd) w1 w2 = some (.ldes rd) := by
  simp [decodeRow, decode4]

/-- Bit 4 of word 0 is the sign of the immediate, and word 1 the rest of it (R312). -/
theorem ldSimm17_decodes (rd : Reg) (w : Word) :
    DecodesTo [0x450#12 ++ rd, w] (.ldSimm17 rd (0#1 ++ w)) ∧ DecodesTo [0x451#12 ++ rd, w] (.ldSimm17 rd (1#1 ++ w)) :=
  ⟨decodesTo_of_row (by simp [instrWords]) (by simp [decodeRow, decode4]),
    decodesTo_of_row (by simp [instrWords]) (by simp [decodeRow, decode4])⟩

theorem ldImm32_decodes (rd : Reg) (imm : BitVec 32) :
    DecodesTo [0x452#12 ++ rd, imm.extractLsb' 16 16, imm.extractLsb' 0 16] (.ldImm32 rd imm) :=
  decodesTo_of_row (by simp [instrWords]) (by simp [decodeRow, decode4])

/-- Settles O37: the value and the frame of each load, and the words of each. -/
theorem loadOfValue : Obligations.LoadOfValue := by
  intro rd rs i8 i17 i32 cc s
  obtain ⟨dec0, dec1⟩ := ldSimm17_decodes rd (i17.extractLsb' 0 16)
  exact ⟨ldSimm8_result rd i8 s, ldSimm17_result rd i17 s, exec_writesReg (· = i32) rfl rfl,
    exec_writesReg (· = s.reg rs) rfl rfl, ldCc_result cc rd s, ldes_result rd s,
    decodesTo_word (Laws.EncodeLength.ldSimm8 rd i8) rfl (decodeRow_ldSimm8 rd i8 _ _), dec0, dec1,
    ldImm32_decodes rd i32, decodesTo_word (Laws.EncodeLength.ldReg rd rs) rfl (decodeRow_ldReg rd rs _ _),
    decodesTo_word (Laws.EncodeLength.ldCc cc rd) rfl (decodeRow_ldCc cc rd _ _),
    decodesTo_word (Laws.EncodeLength.ldes rd) rfl (decodeRow_ldes rd _ _)⟩

/-! ### LEA -/

/-- The sum of a register and a signed offset as an integer, modulo 2^32 (R112). -/
theorem baseOff_eq_ofInt {n : Nat} (base : Quad) (off : BitVec n) :
    baseOff base off = BitVec.ofInt 32 (base.toInt + off.toInt) := by
  rw [BitVec.ofInt_add, BitVec.ofInt_toInt]
  rfl

theorem leaWord_msb (x : BitVec 1) (off : BitVec 14) : (1#1 ++ x ++ off).msb = true := by
  rw [BitVec.msb_append, BitVec.msb_append]
  rfl

theorem leaInd_decodes (rd rs : Reg) (off : BitVec 14) (x : BitVec 1) :
    DecodesTo [0x48#8 ++ rs ++ rd, 1#1 ++ x ++ off] (.leaInd rd rs off) :=
  decodesTo_of_row (by simp [instrWords]) (by simp [decodeRow, decode4, leaWord_msb])

theorem leaPc_decodes (rd : Reg) (off : BitVec 14) (x : BitVec 1) :
    DecodesTo [0x002#12 ++ rd, 1#1 ++ x ++ off] (.leaPc rd off) :=
  decodesTo_of_row (by simp [instrWords]) (by simp [decodeRow, decode0, decode00, leaWord_msb])

/-- The offset's two high bits lie in the digit that, from C up, selects LEA (R342). -/
theorem decodeRow_leaFp (rd : Reg) (off : BitVec 6) (w1 w2 : Word) :
    decodeRow (0x4#4 ++ 0b11#2 ++ off ++ rd) w1 w2 = some (.leaFp rd off) := by
  have digit : ∀ h : BitVec 2, (3#2 ++ h).toNat = 0xC ∨ (3#2 ++ h).toNat = 0xD ∨ (3#2 ++ h).toNat = 0xE
      ∨ (3#2 ++ h).toNat = 0xF := by decide
  obtain h | h | h | h := digit (off.extractLsb' 4 2) <;> simp [decodeRow, decode4, h]

/-- Settles O38: each form's address is the sum that `baseOff` is, and the words of each form. -/
theorem loadOfAddress : Obligations.LoadOfAddress := fun rd rs o14 o6 x s =>
  ⟨exec_writesReg (· = BitVec.ofInt 32 ((s.reg rs).toInt + o14.toInt)) rfl (baseOff_eq_ofInt ..),
    exec_writesReg (· = BitVec.ofInt 32 (s.pc.toInt + o14.toInt)) rfl (baseOff_eq_ofInt ..),
    exec_writesReg (· = BitVec.ofInt 32 ((s.reg 14#4).toInt + o6.toInt)) rfl (baseOff_eq_ofInt ..),
    leaInd_decodes rd rs o14 x, leaPc_decodes rd o14 x,
    decodesTo_word (Laws.EncodeLength.leaFp rd o6) rfl (decodeRow_leaFp rd o6 _ _)⟩

/-! ### EXT -/

theorem extended_kindExtend (k : LoadKind) (v : BitVec (Size.bits (kindSize k))) : Extended k v (kindExtend k v) := by
  have hle : Size.bits (kindSize k) ≤ 32 := by cases k <;> decide
  unfold Extended kindExtend
  cases kindSigned k
  · exact BitVec.toNat_setWidth_of_le hle
  · exact BitVec.toInt_signExtend_of_le hle

theorem setFlags_extPatch (s : State) (r : Quad) :
    (s.setFlags (extPatch r)).flags
      = resultFlags s (flagC s.flags) (isZero r) (isNegative r) (flagV s.flags) false s.flags := by
  rw [setFlags_flags_eq_resultFlags, isZero_eq_beq, isNegative_eq_msb]
  rfl

theorem exec_extInstr {k : LoadKind} {rd rs : Reg} {i : Instr} (h : extInstr k rd rs = some i) (s : State) :
    exec i s = extend k rd rs s := by
  cases k <;> cases h <;> rfl

theorem ext_result (k : LoadKind) (rd rs : Reg) (s : State) :
    ∃ t, extend k rd rs s = .next t ∧ Extended k ((s.reg rs).setWidth (Size.bits (kindSize k))) (t.reg rd)
      ∧ After [rd] (resultFlags s (flagC s.flags) (isZero (t.reg rd)) (isNegative (t.reg rd)) (flagV s.flags) false
          s.flags) s t := by
  refine ⟨_, rfl, ?_⟩
  rw [setFlags_reg, reg_writeReg_same]
  exact ⟨extended_kindExtend k _, after_writeReg_setFlags (setFlags_extPatch s _)⟩

/-- Settles O39: the result with its frame for every kind, and the word of each kind. -/
theorem extendRegister : Obligations.ExtendRegister := by
  intro k rd rs i s hi
  refine ⟨exec_extInstr hi s ▸ ext_result k rd rs s, ?_⟩
  cases k <;> cases hi <;> exact decodesTo_of_row (by simp [instrWords]) (by simp [decodeRow, decode4])

end Sys2Proof.Claims
end

