-- ==== Sys2Proof/Proofs/StoredBytes.lean ====
section
/-! What a store leaves. One byte first: where it lands, and what it keeps. A datum is its bytes stored one after the
other, so what each of them keeps the store keeps, and each lands since they go to distinct places; `stored_putValue` puts
this together. -/

namespace Sys2Proof.Claims

open Sys2Proof.Machine

/-! ### SYSEXCP after a byte is stored to it -/

/-- Writing 1 to a status bit clears it, writing 0 leaves it (R54). -/
theorem statusBit_clear_same (base pos : Nat) (v : Byte) (b : Bool) :
    statusBit base pos (b && !writesOne base pos v) = statusBit base pos b &&& ~~~v := by
  unfold statusBit writesOne
  cases hb : b && inWindow pos base 8
  · rw [Bool.and_right_comm, hb]
    exact BitVec.zero_and.symm
  obtain ⟨rfl, hin⟩ := Bool.and_eq_true_iff.1 hb
  have hlt : pos - base < 8 := by
    simp only [inWindow, Bool.and_eq_true, decide_eq_true_eq] at hin
    omega
  rw [hin, ← BitVec.twoPow_eq, if_pos rfl, BitVec.twoPow_and, BitVec.getLsbD_not, decide_eq_true hlt]
  simp

theorem extraBits_clear_same (base : Nat) (v : Byte) (ps : List Nat) :
    (ps.filter fun pos => !writesOne base pos v).foldr (fun pos b => statusBit base pos true ||| b) 0#8
      = ps.foldr (fun pos b => statusBit base pos true ||| b) 0#8 &&& ~~~v := by
  induction ps with
  | nil => exact BitVec.zero_and.symm
  | cons p ps ih =>
    have hp := statusBit_clear_same base p v true
    rw [List.foldr_cons, BitVec.and_or_distrib_right, ← ih, ← hp, List.filter_cons]
    cases writesOne base p v
    · rfl
    · exact BitVec.zero_or.symm

theorem sysExcpByte_clear_same (l : SysExcpLayout) (i : Nat) (v : Byte) (x : SysExcp) :
    sysExcpByte l (clearSysExcp l i v x) i = sysExcpByte l x i &&& ~~~v := by
  simp only [sysExcpByte, clearSysExcp, statusBit_clear_same, extraBits_clear_same, BitVec.and_or_distrib_right]

/-! ### One byte stored -/

/-- A byte stored at another physical address leaves this one as it was: two addresses of one place select no state. -/
theorem byteAt_putByte_apart {a b : Quad} {s : State} (h : physical s.dev a ≠ physical s.dev b) (v : Byte) :
    byteAt a (putByte b v s) = byteAt a s := by
  by_cases he : locate s.dev a = locate s.dev b
  · unfold byteAt
    rw [putByte_dev]
    obtain hl | hl | hl := locate_eq_cases h he <;> rw [hl]
  · exact byteAt_putByte_other b a v s he

/-- A byte that can be stored lands as its place says (R50 to R55, R86, R87). -/
theorem byteLanded_putByte {a : Quad} {s : State} (b : Byte) (hw : Memory.wf s.mem) (hs : writeStop s.dev a = none) :
    ByteLanded a b s (putByte a b s) := by
  unfold writeStop at hs
  unfold ByteLanded
  cases hl : locate s.dev a with
  | pcov i =>
    simp only [byteAt, putByte, hl]
    exact quadByte_setQuadByte_same s.pcov b i (locate_pcov_lt hl)
  | spov i =>
    simp only [byteAt, putByte, hl]
    exact quadByte_setQuadByte_same s.spov b i (locate_spov_lt hl)
  | flags => simp only [putByte, hl]
  | cpuctl => simp only [putByte, hl]
  | sysexcp l i =>
    simp only [byteAt, putByte, hl]
    exact sysExcpByte_clear_same l i b s.sysexcp
  | ioUnavailable => simp only [byteAt, putByte, hl]
  | memory p => exact byteAt_putByte_same a b s hw hl
  | peripheral => simp [hl] at hs
  | readOnly p => simp [hl] at hs
  | unavailable => simp [hl] at hs

/-- Whether a byte landed is told by how its address reads before and after: FLAGS and DMABW are read there too. -/
theorem ByteLanded.congr {a : Quad} {b : Byte} {s t s' t' : State} (h : ByteLanded a b s t) (hs : s'.dev = s.dev)
    (ht : t.dev = s.dev) (ht' : t'.dev = s.dev) (hbefore : byteAt a s' = byteAt a s) (hafter : byteAt a t' = byteAt a t) :
    ByteLanded a b s' t' := by
  unfold ByteLanded at h ⊢
  rw [hs]
  cases hl : locate s.dev a <;> simp only [hl] at h ⊢
  case flags =>
    simp only [byteAt, ht, ht', hl] at hafter
    exact hafter.trans h
  case cpuctl =>
    simp only [byteAt, ht, ht', hl] at hafter
    exact ((BitVec.append_right_inj _).1 hafter).trans h
  case sysexcp => rw [hafter, hbefore, h]
  all_goals exact hafter.trans h

section
variable {a : Quad} {b : Byte} {s : State}

theorem putByte_flags_of_ne (h : locate s.dev a ≠ .flags) : (putByte a b s).flags = s.flags := by
  unfold putByte
  cases hl : locate s.dev a
  case flags => exact absurd hl h
  all_goals rfl

theorem putByte_pcov_of_ne (h : ∀ i, locate s.dev a ≠ .pcov i) : (putByte a b s).pcov = s.pcov := by
  unfold putByte
  cases hl : locate s.dev a
  case pcov i => exact absurd hl (h i)
  all_goals rfl

theorem putByte_spov_of_ne (h : ∀ i, locate s.dev a ≠ .spov i) : (putByte a b s).spov = s.spov := by
  unfold putByte
  cases hl : locate s.dev a
  case spov i => exact absurd hl (h i)
  all_goals rfl

theorem putByte_dmabw_of_ne (h : locate s.dev a ≠ .cpuctl) : (putByte a b s).dmabw = s.dmabw := by
  unfold putByte
  cases hl : locate s.dev a
  case cpuctl => exact absurd hl h
  all_goals rfl

theorem putByte_sysexcp_of_ne (h : ∀ l i, locate s.dev a ≠ .sysexcp l i) : (putByte a b s).sysexcp = s.sysexcp := by
  unfold putByte
  cases hl : locate s.dev a
  case sysexcp l i => exact absurd hl (h l i)
  all_goals rfl

end

/-! ### Bytes stored one after the other -/

/-- Bytes stored at their addresses, the first one first. -/
def putBytes : List (Quad × Byte) → State → State
  | [], s => s
  | x :: xs, s => putBytes xs (putByte x.1 x.2 s)

theorem putValue_eq_putBytes (z : Size) (a : Quad) (v : BitVec (Size.bits z)) (s : State) :
    putValue z a v s = putBytes (datumBytes z a v) s := by
  have z0 : a + BitVec.ofNat 32 0 = a := BitVec.add_zero a
  cases z <;> simp only [datumBytes, Size.bytes, List.range, List.range.loop, List.map, putBytes, z0] <;> rfl

/-- What each of the bytes keeps, all of them keep. -/
theorem putBytes_keeps {α : Type} (f : State → α) {xs : List (Quad × Byte)} {s : State}
    (h : ∀ x ∈ xs, ∀ u : State, u.dev = s.dev → f (putByte x.1 x.2 u) = f u) : f (putBytes xs s) = f s := by
  induction xs generalizing s with
  | nil => rfl
  | cons x xs ih =>
    have hrest : f (putBytes xs (putByte x.1 x.2 s)) = f (putByte x.1 x.2 s) :=
      ih fun y hy u hu => h y (List.mem_cons_of_mem x hy) u (hu.trans (putByte_dev ..))
    exact hrest.trans (h x List.mem_cons_self s rfl)

theorem putBytes_dev (xs : List (Quad × Byte)) (s : State) : (putBytes xs s).dev = s.dev :=
  putBytes_keeps State.dev fun x _ u _ => putByte_dev x.1 x.2 u

theorem byteAt_putBytes_apart {a : Quad} {xs : List (Quad × Byte)} {s : State}
    (h : ∀ x ∈ xs, physical s.dev a ≠ physical s.dev x.1) : byteAt a (putBytes xs s) = byteAt a s :=
  putBytes_keeps (byteAt a) fun x hx _ hu => byteAt_putByte_apart (hu.symm ▸ h x hx) x.2

/-- Bytes stored at distinct addresses all land: a later one touches none before it, and finds its own as it was. -/
theorem byteLanded_putBytes {xs : List (Quad × Byte)} {s : State}
    (apart : xs.Pairwise fun x y => physical s.dev x.1 ≠ physical s.dev y.1)
    (writable : ∀ x ∈ xs, writeStop s.dev x.1 = none) (hw : Memory.wf s.mem) :
    ∀ x ∈ xs, ByteLanded x.1 x.2 s (putBytes xs s) := by
  induction xs generalizing s with
  | nil => simp
  | cons x xs ih =>
    obtain ⟨hx, hxs⟩ := List.pairwise_cons.1 apart
    have hdev : (putByte x.1 x.2 s).dev = s.dev := putByte_dev ..
    have hend : (putBytes (x :: xs) s).dev = s.dev := putBytes_dev ..
    rw [List.forall_mem_cons] at writable ⊢
    obtain ⟨hwx, hwxs⟩ := writable
    constructor
    · have hafter : byteAt x.1 (putBytes xs (putByte x.1 x.2 s)) = byteAt x.1 (putByte x.1 x.2 s) :=
        byteAt_putBytes_apart (by rw [hdev]; exact hx)
      exact (byteLanded_putByte x.2 hw hwx).congr rfl hdev hend rfl hafter
    · intro y hy
      have hbefore : byteAt y.1 (putByte x.1 x.2 s) = byteAt y.1 s := byteAt_putByte_apart (hx y hy).symm x.2
      have hland := ih (by rw [hdev]; exact hxs) (by rw [hdev]; exact hwxs) (putByte_mem_wf _ _ _ hw) y hy
      exact hland.congr hdev.symm (putBytes_dev ..) (hend.trans hdev.symm) hbefore.symm rfl

/-! ### A datum stored -/

theorem forall_mem_datumBytes {P : Quad × Byte → Prop} {z : Size} {a : Quad} {v : BitVec (Size.bits z)} :
    (∀ x ∈ datumBytes z a v, P x) ↔ ∀ k < Size.bytes z, P (a + BitVec.ofNat 32 k, beByte z v k) := by
  simp [datumBytes]

theorem datumBytes_apart (d : Device) (z : Size) (a : Quad) (v : BitVec (Size.bits z)) :
    (datumBytes z a v).Pairwise fun x y => physical d x.1 ≠ physical d y.1 := by
  have hle : Size.bytes z ≤ 4 := by cases z <;> decide
  refine List.pairwise_map.2 (List.pairwise_lt_range.imp_of_mem fun {i j} hi hj hij => ?_)
  rw [List.mem_range] at hi hj
  exact physical_add_ne d a (Nat.lt_of_lt_of_le hi hle) (Nat.lt_of_lt_of_le hj hle) (Nat.ne_of_lt hij)

theorem writable_iff {d : Device} {z : Size} {a : Quad} :
    Writable d z a ↔ ∀ k < Size.bytes z, writeStop d (a + BitVec.ofNat 32 k) = none := by
  simp [Writable, bytesFrom]

theorem putValue_keeps {α : Type} (f : State → α) {z : Size} {a : Quad} {v : BitVec (Size.bits z)} {s : State}
    (h : ∀ k < Size.bytes z, ∀ (b : Byte) (u : State), u.dev = s.dev → f (putByte (a + BitVec.ofNat 32 k) b u) = f u) :
    f (putValue z a v s) = f s := by
  rw [putValue_eq_putBytes]
  exact putBytes_keeps f (forall_mem_datumBytes.2 fun k hk => h k hk _)

/-- What a store leaves where every byte can be written (R96). -/
theorem stored_putValue {z : Size} {a : Quad} {s : State} (v : BitVec (Size.bits z)) (hm : Memory.wf s.mem)
    (hw : Writable s.dev z a) : Stored z a v s (putValue z a v s) where
  landed := by
    rw [putValue_eq_putBytes]
    exact forall_mem_datumBytes.1 (byteLanded_putBytes (datumBytes_apart s.dev z a v)
      (forall_mem_datumBytes.2 (writable_iff.1 hw)) hm)
  bytes b hb := putValue_keeps (byteAt b) fun k hk _ _ hu => byteAt_putByte_apart (hu.symm ▸ hb k hk) _
  flags h := putValue_keeps State.flags fun k hk _ _ hu => putByte_flags_of_ne (hu.symm ▸ h k hk)
  pcov h := putValue_keeps State.pcov fun k hk _ _ hu => putByte_pcov_of_ne (hu.symm ▸ h k hk)
  spov h := putValue_keeps State.spov fun k hk _ _ hu => putByte_spov_of_ne (hu.symm ▸ h k hk)
  dmabw h := putValue_keeps State.dmabw fun k hk _ _ hu => putByte_dmabw_of_ne (hu.symm ▸ h k hk)
  sysexcp h := putValue_keeps State.sysexcp fun k hk _ _ hu => putByte_sysexcp_of_ne (hu.symm ▸ h k hk)
  request := putValue_spovReq z a v s
  regs q _ := putValue_reg z a v s q
  pc := putValue_pc z a v s
  latches := by constructor <;> simp
  machine := by constructor <;> simp

end Sys2Proof.Claims
end

