-- ==== Sys2Proof/Proofs/StackResults.lean ====
section
/-! PUSH of an immediate, PUSHF and POPF: the push of one datum is a write of SP and a store, which do not look at each
other's results; POPF is one byte read, a write of SP and a write of FLAGS. -/

namespace Sys2Proof.Claims

open Sys2Proof.Machine

/-! ### Pushes -/

/-- The store does not look at the registers, so it may come before the write of SP. -/
theorem putValue_writeReg (z : Size) (a : Quad) (v : BitVec (Size.bits z)) (s : State) (r : Reg) (q : Quad) :
    putValue z a v (s.writeReg r q) =
      { putValue z a v s with regs := (s.writeReg r q).regs, spovReq := (s.writeReg r q).spovReq } :=
  putValue_regs_spovReq z a v (s.writeReg r q).regs (s.writeReg r q).spovReq s

/-- Undisturbed, a push lowers SP and stores the datum at the new SP (R99, R136). -/
theorem busPush_pushed {z : Size} {s : State} (v : BitVec (Size.bits z)) (hu : Undisturbed s) (hm : Memory.wf s.mem)
    (hw : Writable s.dev z (s.reg spReg - sizeQuad z)) : ∃ t, busPush z v s = .next t ∧ Pushed z v s t := by
  refine ⟨_, (busPush_eq_next hu hm).2 ⟨hw, rfl⟩, ?_, _, stored_putValue v hm hw, fun q hq => ?_, ?_⟩
  · rw [putValue_reg]
    exact reg_writeReg_same s spReg _
  · rw [putValue_reg, putValue_reg]
    exact reg_writeReg_other s _ (List.ne_of_not_mem_cons hq)
  · rw [putValue_regs, putValue_spovReq]
    exact putValue_writeReg z _ v s spReg _

theorem decodeRow_pushBImm8 (imm : BitVec 8) (w1 w2 : Word) : decodeRow (0x0A#8 ++ imm) w1 w2 = some (.pushBImm8 imm) := by
  simp [decodeRow, decode0]

theorem decodeRow_pushWSimm8 (imm : BitVec 8) (w1 w2 : Word) :
    decodeRow (0x0C#8 ++ imm) w1 w2 = some (.pushWSimm8 imm) := by
  simp [decodeRow, decode0]

theorem decodeRow_pushSimm8 (imm : BitVec 8) (w1 w2 : Word) : decodeRow (0x0D#8 ++ imm) w1 w2 = some (.pushSimm8 imm) := by
  simp [decodeRow, decode0]

/-- Settles O43: each of the four instructions is the push of its datum, and the word of each. -/
theorem pushOfImmediate : Obligations.PushOfImmediate := by
  intro imm s hu hm
  have push (z : Size) (v : BitVec (Size.bits z)) (hw : Writable s.dev z (s.reg spReg - sizeQuad z)) :
      ∃ t, busPush z v s = .next t ∧ Pushed z v s t := busPush_pushed v hu hm hw
  exact ⟨push .byte imm, push .word (imm.signExtend 16), push .quad (imm.signExtend 32), push .word (flagsWord s.flags),
    decodesTo_word (Laws.EncodeLength.pushBImm8 imm) rfl (decodeRow_pushBImm8 imm _ _),
    decodesTo_word (Laws.EncodeLength.pushWSimm8 imm) rfl (decodeRow_pushWSimm8 imm _ _),
    decodesTo_word (Laws.EncodeLength.pushSimm8 imm) rfl (decodeRow_pushSimm8 imm _ _),
    decodesTo_word Laws.EncodeLength.pushf rfl rfl⟩

/-! ### POPF -/

theorem onlyRegs_withFlags (s : State) (f : Byte) : OnlyRegs [] s { s with flags := f } where
  regs _ _ := rfl
  bytes := readsSame_of_mem rfl rfl ⟨rfl, rfl, rfl, rfl⟩
  control := ⟨rfl, rfl, rfl, rfl⟩
  latches := ⟨rfl, rfl⟩
  machine := ⟨rfl, rfl, rfl, rfl, rfl, rfl, rfl, rfl⟩
  request _ := rfl

theorem exec_popf {s : State} (hu : Undisturbed s) (hr : Readable s.dev .byte (s.reg spReg + 1#32)) :
    exec .popf s = .next { s.writeReg spReg (s.reg spReg + 2#32) with flags := byteAt (s.reg spReg + 1#32) s } := by
  change andThen (busRead .byte (s.reg spReg + 1#32) s) _ = _
  rw [busRead_of_readable hu hr]
  rfl

theorem popf_result {s : State} (hu : Undisturbed s) (hr : Readable s.dev .byte (s.reg spReg + 1#32)) :
    ∃ t, exec .popf s = .next t ∧ t.reg spReg = s.reg spReg + 2#32
      ∧ After [spReg] (byteAt (s.reg spReg + 1#32) s) s t :=
  ⟨_, exec_popf hu hr, reg_writeReg_same s spReg _,
    (onlyRegs_writeReg s spReg _).trans (onlyRegs_withFlags _ _), rfl, rfl⟩

/-- Settles O45: only the byte above the pad byte is read, and FLAGS is all of it. -/
theorem popOfFlags : Obligations.PopOfFlags := fun _ hu hr =>
  ⟨popf_result hu hr, decodesTo_word Laws.EncodeLength.popf rfl rfl⟩

end Sys2Proof.Claims
end

/-! JP, JPA, JP cc and DJNZ. A jump changes nothing but the PC, so what is its own is the target; DJNZ is a decrement that
leaves the PC where it is, and a jump after it. -/

namespace Sys2Proof.Claims

open Sys2Proof.Machine

/-! ### Targets -/

/-- The sum of the PC and twice a signed offset as an integer, modulo 2^32 (R137). -/
theorem relTarget_eq_ofInt {n : Nat} (pc : Quad) (rel : BitVec n) :
    relTarget pc rel = pc + BitVec.ofInt 32 (2 * rel.toInt) := by
  rw [BitVec.ofInt_mul]
  rfl

/-- Bit 0 is discarded: the largest even number that is no larger (R138). -/
theorem evenAddress_eq_ofNat (q : Quad) : evenAddress q = BitVec.ofNat 32 (2 * (q.toNat / 2)) := by
  have mask : ∀ i < 32, (0xFFFFFFFE#32).getLsbD i = decide (0 < i) := by decide
  apply BitVec.eq_of_getLsbD_eq
  intro i hi
  rw [evenAddress, BitVec.getLsbD_and, mask i hi, BitVec.getLsbD_ofNat, decide_eq_true hi, Bool.true_and]
  cases i with
  | zero => simp
  | succ i => simp [Nat.testBit_succ, BitVec.getLsbD]

/-- The offset of DJNZ is unsigned and 32 is taken off it, so that every jump of it goes backward (R438). -/
theorem djnzTarget_eq_ofInt (pc : Quad) (rel : BitVec 4) :
    pc - 32#32 + 2#32 * rel.setWidth 32 = pc + BitVec.ofInt 32 (2 * (rel.toNat : Int) - 32) := by
  have hrel : BitVec.ofInt 32 (rel.toNat : Int) = rel.setWidth 32 := by
    rw [BitVec.ofInt_natCast, BitVec.ofNat_toNat]
  have hoff : BitVec.ofInt 32 (2 * (rel.toNat : Int) - 32) = 2#32 * rel.setWidth 32 - 32#32 := by
    rw [Int.sub_eq_add_neg, BitVec.ofInt_add, BitVec.ofInt_mul, hrel, BitVec.sub_eq_add_neg]
    rfl
  rw [hoff, BitVec.sub_eq_add_neg, BitVec.sub_eq_add_neg, BitVec.add_assoc, BitVec.add_comm (-32#32)]

/-! ### The frame of a jump -/

theorem jumpedTo_jumpTo (q : Quad) (s : State) : JumpedTo q s (jumpTo q s) where
  only :=
    { regs := fun _ _ => rfl
      bytes := readsSame_of_mem rfl rfl ⟨rfl, rfl, rfl, rfl⟩
      control := ⟨rfl, rfl, rfl, rfl⟩
      latches := ⟨rfl, rfl⟩
      machine := ⟨rfl, rfl, rfl, rfl, rfl, rfl, rfl, rfl⟩
      request := fun _ => rfl }
  flags := rfl
  pc := rfl

/-- Going on to the next instruction is a jump to the PC as it stands. -/
theorem jumpedTo_self (s : State) : JumpedTo s.pc s s where
  only := onlyRegs_withFlags s s.flags
  flags := rfl
  pc := rfl

/-! ### JP, JPA and JP cc -/

theorem jumpRelative_result {n : Nat} (rel : BitVec n) (s : State) :
    ∃ t, jumpRelative rel s = .next t ∧ JumpedTo (s.pc + BitVec.ofInt 32 (2 * rel.toInt)) s t :=
  ⟨_, rfl, relTarget_eq_ofInt s.pc rel ▸ jumpedTo_jumpTo _ s⟩

theorem jumpRegister_result (rs : Reg) (s : State) :
    ∃ t, jumpRegister rs s = .next t ∧ JumpedTo (BitVec.ofNat 32 (2 * ((s.reg rs).toNat / 2))) s t :=
  ⟨_, rfl, evenAddress_eq_ofNat (s.reg rs) ▸ jumpedTo_jumpTo _ s⟩

theorem jumpAbsolute_result (imm : Quad) (s : State) :
    ∃ t, jumpAbsolute imm s = .next t ∧ JumpedTo (BitVec.ofNat 32 (2 * (imm.toNat / 2))) s t :=
  ⟨_, rfl, evenAddress_eq_ofNat imm ▸ jumpedTo_jumpTo _ s⟩

theorem jumpConditional_result {n : Nat} (cc : CC) (rel : BitVec n) (s : State) :
    ∃ t, jumpConditional cc rel s = .next t
      ∧ JumpedTo (if cond cc s.flags then s.pc + BitVec.ofInt 32 (2 * rel.toInt) else s.pc) s t := by
  unfold jumpConditional
  split
  · exact jumpRelative_result rel s
  · exact ⟨s, rfl, jumpedTo_self s⟩

theorem decodeRow_jpRel12 (rel : BitVec 12) (w1 w2 : Word) : decodeRow (0xC#4 ++ rel) w1 w2 = some (.jpRel12 rel) := by
  simp [decodeRow]

theorem jpRel24_decodes (rel : BitVec 24) :
    DecodesTo [0xF0#8 ++ rel.extractLsb' 16 8, rel.extractLsb' 0 16] (.jpRel24 rel) :=
  decodesTo_of_row (by simp [instrWords]) (by simp [decodeRow, decodeF])

theorem decodeRow_jpInd (rs : Reg) (w1 w2 : Word) : decodeRow (0xF20#12 ++ rs) w1 w2 = some (.jpInd rs) := by
  simp [decodeRow, decodeF]

theorem decodeRow_jpa (w1 w2 : Word) : decodeRow 0xF230#16 w1 w2 = some (.jpa (w1 ++ w2)) := rfl

theorem jpa_decodes (imm : Quad) :
    DecodesTo [0xF230#16, imm.extractLsb' 16 16, imm.extractLsb' 0 16] (.jpa imm) :=
  decodesTo_of_row (Nat.le_of_eq rfl) (by simp [decodeRow_jpa])

theorem decodeRow_jpCcRel8 (cc : CC) (rel : BitVec 8) (w1 w2 : Word) :
    decodeRow (0xE#4 ++ cc ++ rel) w1 w2 = some (.jpCcRel8 cc rel) := by
  simp [decodeRow]

theorem jpCcRel16_decodes (cc : CC) (rel : BitVec 16) : DecodesTo [0xF22#12 ++ cc, rel] (.jpCcRel16 cc rel) :=
  decodesTo_of_row (by simp [instrWords]) (by simp [decodeRow, decodeF])

/-- Settles O49: the target and the frame of each of the four kinds of jump, and the words of each form. -/
theorem jumps : Obligations.Jumps := fun rs r12 r24 r8 r16 imm cc s =>
  ⟨jumpRelative_result r12 s, jumpRelative_result r24 s, jumpRegister_result rs s, jumpAbsolute_result imm s,
    jumpConditional_result cc r8 s, jumpConditional_result cc r16 s,
    decodesTo_word (Laws.EncodeLength.jpRel12 r12) rfl (decodeRow_jpRel12 r12 _ _), jpRel24_decodes r24,
    decodesTo_word (Laws.EncodeLength.jpInd rs) rfl (decodeRow_jpInd rs _ _), jpa_decodes imm,
    decodesTo_word (Laws.EncodeLength.jpCcRel8 cc r8) rfl (decodeRow_jpCcRel8 cc r8 _ _), jpCcRel16_decodes cc r16⟩

/-! ### DJNZ -/

/-- The state between the decrement of DJNZ and its jump. -/
def decremented (rd : Reg) (s : State) : State :=
  (s.writeReg rd (subFlags (s.reg rd) 1#32 false).r).setFlags
    (arithPatch (subFlags (s.reg rd) 1#32 false) false false (blank1 (s.reg rd)))

theorem decremented_reg_same (rd : Reg) (s : State) :
    (decremented rd s).reg rd = (subFlags (s.reg rd) 1#32 false).r := by
  rw [decremented, setFlags_reg, reg_writeReg_same]

/-- The decrement is a subtraction of 1 without a borrow, its Blank flag that of Rd alone (R438). -/
theorem decremented_result (rd : Reg) (s : State) :
    IsDifference (s.reg rd) 1#32 0 ((decremented rd s).reg rd)
      ∧ After [rd] (differenceFlags s (s.reg rd) 1#32 0 ((decremented rd s).reg rd)
          (isZero ((decremented rd s).reg rd)) (isZero (s.reg rd)) s.flags) s (decremented rd s) := by
  rw [decremented_reg_same, isZero_eq_beq (s.reg rd)]
  exact ⟨subFlags_r (by decide) (s.reg rd) 1#32 false,
    after_writeReg_setFlags (setFlags_arithPatch_subFlags (by decide) s (s.reg rd) 1#32 false false false _)⟩

theorem decrementJump_eq (rd : Reg) (rel : BitVec 4) (s : State) :
    decrementJump rd rel s =
      if (decremented rd s).reg rd = 0#32 then .next (decremented rd s)
      else .next (jumpTo (s.pc - 32#32 + 2#32 * rel.setWidth 32) (decremented rd s)) := by
  rw [decremented_reg_same]
  rfl

/-- DJNZ looks at the new value of Rd, and jumps from the PC that the decrement left as it was. -/
theorem decrementJump_result (rd : Reg) (rel : BitVec 4) (s : State) :
    ∃ t, decrementJump rd rel s = .next t
      ∧ JumpedTo (if (decremented rd s).reg rd = 0#32 then s.pc
          else s.pc + BitVec.ofInt 32 (2 * (rel.toNat : Int) - 32)) (decremented rd s) t := by
  obtain ⟨-, decrement⟩ := decremented_result rd s
  rw [decrementJump_eq]
  split
  · exact ⟨decremented rd s, rfl, decrement.pc ▸ jumpedTo_self (decremented rd s)⟩
  · exact ⟨_, rfl, djnzTarget_eq_ofInt s.pc rel ▸ jumpedTo_jumpTo _ (decremented rd s)⟩

theorem decodeRow_djnz (rd : Reg) (rel : BitVec 4) (w1 w2 : Word) :
    decodeRow (0xFD#8 ++ rel ++ rd) w1 w2 = some (.djnz rd rel) := by
  simp [decodeRow, decodeF]

/-- Settles O52: the decrement's result, flags and frame are those of the state before the jump, which changes only the PC. -/
theorem decrementAndJump : Obligations.DecrementAndJump := by
  intro rd rel s
  obtain ⟨difference, decrement⟩ := decremented_result rd s
  obtain ⟨t, hexec, jump⟩ := decrementJump_result rd rel s
  have hreg : t.reg rd = (decremented rd s).reg rd := jump.only.regs rd List.not_mem_nil
  refine ⟨⟨t, hexec, ?_⟩, decodesTo_word (Laws.EncodeLength.djnz rd rel) rfl (decodeRow_djnz rd rel _ _)⟩
  rw [hreg]
  exact ⟨difference, jump.flags.trans decrement.flags, jump.pc, decrement.only.trans jump.only⟩

end Sys2Proof.Claims

/-! Decoding what the encoder writes. The words of each family of instructions are put in hexadecimal digits, which the parts
of the opcode map look at; the row that a family's words match is one lemma for each of its forms. -/

namespace Sys2Proof

/-! ### Words from digits -/

/-- A word from its hexadecimal digits. -/
def ofDigits (a b c d : BitVec 4) : Word := a ++ b ++ c ++ d

/-- A digit from its first bit and the other three. -/
def ofBits13 (x : BitVec 1) (o : BitVec 3) : BitVec 4 := x ++ o

section
variable (a b c d : BitVec 4)

@[simp] theorem nib3_ofDigits : nib3 (ofDigits a b c d) = a := nib3_append_4_4_4_4 a b c d
@[simp] theorem nib2_ofDigits : nib2 (ofDigits a b c d) = b := nib2_append_4_4_4_4 a b c d
@[simp] theorem nib1_ofDigits : nib1 (ofDigits a b c d) = c := nib1_append_4_4_4_4 a b c d
@[simp] theorem nib0_ofDigits : nib0 (ofDigits a b c d) = d := nib0_append_4_4_4_4 a b c d

end

@[simp] theorem msb_ofBits13 (x : BitVec 1) (o : BitVec 3) : (ofBits13 x o).msb = x.msb := by
  rw [ofBits13, BitVec.msb_append]; rfl

@[simp] theorem low3_ofBits13 (x : BitVec 1) (o : BitVec 3) : (ofBits13 x o).extractLsb' 0 3 = o :=
  BitVec.extractLsb'_append_eq_right

theorem append_ofBits13 {n m : Nat} (a : BitVec n) (x : BitVec 1) (o : BitVec 3) (d : BitVec m) :
    a ++ x ++ o ++ d = (a ++ ofBits13 x o ++ d : BitVec (n + 4 + m)) := by
  rw [show a ++ x ++ o = (a ++ (x ++ o) : BitVec (n + 4)) from BitVec.append_assoc]
  rfl

theorem ofDigits_of_4_1_3_1_3_4 (a : BitVec 4) (x y : BitVec 1) (o p : BitVec 3) (d : BitVec 4) :
    a ++ x ++ o ++ y ++ p ++ d = ofDigits a (ofBits13 x o) (ofBits13 y p) d := by
  rw [append_ofBits13, append_ofBits13]; rfl

theorem ofDigits_of_4_1_3_4_4 (a : BitVec 4) (x : BitVec 1) (o : BitVec 3) (c d : BitVec 4) :
    a ++ x ++ o ++ c ++ d = ofDigits a (ofBits13 x o) c d := by
  rw [append_ofBits13]; rfl

theorem ofDigits_of_8_1_3_4 (a : BitVec 8) (x : BitVec 1) (o : BitVec 3) (d : BitVec 4) :
    a ++ x ++ o ++ d = ofDigits (a.extractLsb' 4 4) (a.extractLsb' 0 4) (ofBits13 x o) d := by
  have ha : a.extractLsb' 4 4 ++ a.extractLsb' 0 4 = a := by
    rw [BitVec.extractLsb'_append_extractLsb'_eq_extractLsb' (by decide), BitVec.extractLsb'_eq_self]
  rw [append_ofBits13, ofDigits, ha]

theorem low8_append_5_3_8 (a : BitVec 5) (o : BitVec 3) (b : BitVec 8) : low8 (a ++ o ++ b) = b :=
  BitVec.extractLsb'_append_eq_right

theorem mid3_append_5_3_8 (a : BitVec 5) (o : BitVec 3) (b : BitVec 8) : (a ++ o ++ b).extractLsb' 8 3 = o := by
  rw [BitVec.extractLsb'_append_eq_of_le (by decide)]
  exact BitVec.extractLsb'_append_eq_right

@[simp] theorem msb_append_2_14 (a : BitVec 2) (b : BitVec 14) : BitVec.msb (n := 16) (a ++ b) = a.getLsbD 1 := by
  rw [BitVec.msb_append]; rfl

@[simp] theorem bit14_append_2_14 (a : BitVec 2) (b : BitVec 14) :
    (a ++ b : BitVec 16)[14] = a.getLsbD 0 := by
  rw [BitVec.getElem_append]; rfl

/-- The first bit of a 17-bit immediate, which word 0 has, and the rest of it, which word 1 has (R312). -/
theorem append_parts17 (v : BitVec 17) : v.extractLsb' 16 1 ++ v.extractLsb' 0 16 = v := by
  rw [BitVec.extractLsb'_append_extractLsb'_eq_extractLsb' (by decide), BitVec.extractLsb'_eq_self]

theorem twoBits_cases : ∀ x : BitVec 2, x = 0#2 ∨ x = 1#2 ∨ x = 2#2 ∨ x = 3#2 := by decide

/-! ### The row of the opcode map that words match -/

theorem Bop.ofBits_bits (op : Bop) : Bop.ofBits op.bits = op := by cases op <;> rfl

/-- The row that the first words of a list match; words that are missing are 0. -/
noncomputable def rowOf (ws : List Word) : Option Instr := decodeRow (ws.getD 0 0#16) (ws.getD 1 0#16) (ws.getD 2 0#16)

section
variable (op : Bop) (rest : List Word)

theorem rowOf_bopLoad (k : LoadKind) (rd : Reg) (m : Mem13) :
    rowOf (encodeBop op (.load k rd m) ++ rest) = some (bopInstr op (.load k rd m)) := by
  cases m with
  | addr16 a | addr32 a =>
    rw [encodeBop, ofDigits_of_4_1_3_1_3_4]
    cases k <;> simp [rowOf, decodeRow, decode7, loadSel, quadWords, Bop.ofBits_bits] <;> rfl
  | ind rs off =>
    rw [encodeBop, ofDigits_of_4_1_3_4_4]
    cases k <;> simp [rowOf, decodeRow, decode7, loadSel, Bop.ofBits_bits, kindBZ]

theorem rowOf_bopStore (z : Size) (m : Mem13) (rs : Reg) :
    rowOf (encodeBop op (.store z m rs) ++ rest) = some (bopInstr op (.store z m rs)) := by
  cases m with
  | addr16 a | addr32 a =>
    rw [encodeBop, ofDigits_of_4_1_3_1_3_4]
    cases z <;> simp [rowOf, decodeRow, decode7, storeSel, quadWords, Bop.ofBits_bits]
  | ind rd off =>
    rw [encodeBop, ofDigits_of_4_1_3_4_4]
    cases z <;> simp [rowOf, decodeRow, decode7, storeSel, Bop.ofBits_bits]

theorem rowOf_bopReg (rd rs : Reg) : rowOf (encodeBop op (.reg rd rs) ++ rest) = some (bopInstr op (.reg rd rs)) := by
  rw [encodeBop, ofDigits_of_4_1_3_4_4]
  cases op <;> simp [rowOf, decodeRow, decodeA, ofBits13, Bop.bits, Bop.ofBits]

theorem rowOf_bopMemSimm16 (rd : Reg) (imm : BitVec 16) :
    rowOf (encodeBop op (.memSimm16 rd imm) ++ rest) = some (bopInstr op (.memSimm16 rd imm)) := by
  rw [encodeBop, ofDigits_of_8_1_3_4]
  cases op <;> simp [rowOf, decodeRow, decodeA, decodeAD, ofBits13, Bop.bits, Bop.ofBits]

theorem rowOf_bopMemBImm8 (rd : Reg) (imm : BitVec 8) :
    rowOf (encodeBop op (.memBImm8 rd imm) ++ rest) = some (bopInstr op (.memBImm8 rd imm)) := by
  have hrow (w1 w2 : Word) : decodeRow (0xAD9#12 ++ rd) w1 w2 =
      some (bopInstr (Bop.ofBits (w1.extractLsb' 8 3)) (.memBImm8 rd (low8 w1))) := by
    simp [decodeRow, decodeA, decodeAD]
  rw [encodeBop, rowOf, List.cons_append, List.cons_append, List.getD_cons_zero, List.getD_cons_succ, List.getD_cons_zero,
    hrow, mid3_append_5_3_8, low8_append_5_3_8, Bop.ofBits_bits]

theorem rowOf_encodeBop (f : BopForm) : rowOf (encodeBop op f ++ rest) = some (bopInstr op f) := by
  cases f with
  | load k rd m => exact rowOf_bopLoad op rest k rd m
  | store z m rs => exact rowOf_bopStore op rest z m rs
  | reg rd rs => exact rowOf_bopReg op rest rd rs
  | memSimm16 rd imm => exact rowOf_bopMemSimm16 op rest rd imm
  | memBImm8 rd imm => exact rowOf_bopMemBImm8 op rest rd imm
  | imm32 rd imm | uimm16 rd imm | memImm32 rd imm | memWImm16 rd imm =>
    rw [encodeBop, ofDigits_of_8_1_3_4]
    simp [rowOf, decodeRow, decodeA, quadWords, Bop.ofBits_bits]

end

theorem rowOf_encodeUop (op : Uop) (z : Size) (m : UopMem) (rest : List Word) :
    rowOf (encodeUop op z m ++ rest) = some (uopInstr op z m) := by
  cases m with
  | addr16 a | addr32 a =>
    cases op <;> cases z <;>
      simp [rowOf, encodeUop, decodeRow, decodeA, decodeAD, quadWords, Uop.bits, Uop.ofBits, uopSel, uopSize, nib3, nib2,
        nib1, nib0]
  | mem rd => cases op <;> cases z <;> simp [rowOf, encodeUop, decodeRow, decodeA, Uop.bits, Uop.ofBits, uopSel, uopSize]
  | ind rd off =>
    cases op <;> cases z <;> simp [rowOf, encodeUop, decodeRow, decodeA, decodeAD, Uop.bits, uopSel, uopSize]

/-- The selector of a load or store through the Frame Pointer is the first half of digit 2. -/
theorem high2_append_2_2 (a b : BitVec 2) : (a ++ b).extractLsb' 2 2 = a := by
  rw [BitVec.extractLsb'_append_eq_of_le (by decide)]
  exact BitVec.extractLsb'_eq_self

theorem rowOf_encodeLoad (k : LoadKind) (rd : Reg) (m : LoadMem) (hm : m ≠ .postInc spReg) (rest : List Word) :
    rowOf (encodeLoad k rd m ++ rest) = some (loadInstr k rd m) := by
  cases m with
  | postInc rs =>
    have hrs : rs ≠ 15#4 := fun h => hm (by rw [h])
    cases k <;> simp [rowOf, encodeLoad, decodeRow, decode1, decodePostInc, ptrLoadOp, hrs]
  | mem rs => cases k <;> simp [rowOf, encodeLoad, decodeRow, decode1, ptrLoadOp]
  | pc off =>
    cases k <;> simp [rowOf, encodeLoad, decodeRow, decode0, decode00, zbSel, kindZB]
  | ind rs off => cases k <;> simp [rowOf, encodeLoad, decodeRow, decode4, zbSel, kindZB]
  | fp off =>
    cases k <;> rw [encodeLoad] <;> simp [rowOf, decodeRow, decode5, decode6, zbSel, kindZB, high2_append_2_2]
  | addr16 a | addr32 a =>
    cases k <;>
      simp [rowOf, encodeLoad, decodeRow, decode0, decode03, loadSel, kindBZ, quadWords, BitVec.msb_eq_getLsbD_last]

theorem rowOf_encodeStore (z : Size) (m : StoreMem) (rs : Reg) (rest : List Word) :
    rowOf (encodeStore z m rs ++ rest) = some (storeInstr z m rs) := by
  cases m with
  | addr16 a | addr32 a =>
    cases z <;> simp [rowOf, encodeStore, decodeRow, decode0, decode03, storeSel, quadWords, BitVec.msb_eq_getLsbD_last]
  | mem rd | preDec rd | postInc rd => cases z <;> simp [rowOf, encodeStore, decodeRow, decode0, decode1, ptrStoreOp]
  | ind rd off => cases z <;> simp [rowOf, encodeStore, decodeRow, decode4]
  | fp off => cases z <;> simp [rowOf, encodeStore, decodeRow, decode5, fpStoreOp, high2_append_2_2]

theorem rowOf_encodeStoreImm (m : PtrMode) (rd : Reg) (v : StoreVal) (rest : List Word) :
    rowOf (encodeStoreImm m rd v ++ rest) = some (storeImmInstr m rd v) := by
  cases v <;> cases m <;> simp [rowOf, encodeStoreImm, decodeRow, decode0, decode09, quadWords]

theorem rowOf_encode_popInstr (k : LoadKind) (rd : Reg) (rest : List Word) :
    rowOf (encode (popInstr k rd) ++ rest) = some (popInstr k rd) := by
  cases k <;> simp [rowOf, popInstr, encode, decodeRow, decode1, decodePostInc]

/-! ### Every instruction -/

theorem encode_bopInstr (op : Bop) (f : BopForm) : encode (bopInstr op f) = encodeBop op f := by
  cases f with
  | load k rd m => cases op <;> cases k <;> cases m <;> rfl
  | store z m rs => cases op <;> cases z <;> cases m <;> rfl
  | _ => cases op <;> rfl

theorem encode_uopInstr (op : Uop) (z : Size) (m : UopMem) : encode (uopInstr op z m) = encodeUop op z m := by
  cases op <;> cases z <;> cases m <;> rfl

theorem encode_loadInstr (k : LoadKind) (rd : Reg) (m : LoadMem) : encode (loadInstr k rd m) = encodeLoad k rd m := by
  cases k <;> cases m <;> rfl

theorem encode_storeInstr (z : Size) (m : StoreMem) (rs : Reg) : encode (storeInstr z m rs) = encodeStore z m rs := by
  cases z <;> cases m <;> rfl

theorem encode_storeImmInstr (m : PtrMode) (rd : Reg) (v : StoreVal) :
    encode (storeImmInstr m rd v) = encodeStoreImm m rd v := by
  cases m <;> cases v <;> rfl

/-- A well-formed postincrement load is not the load that POP is. -/
theorem ne_postInc_of_wellFormed {k : LoadKind} {rd : Reg} {m : LoadMem} (h : wellFormed (loadInstr k rd m) = true) :
    m ≠ .postInc spReg := by
  rintro rfl
  cases k <;> simp [loadInstr, wellFormed, pointerNotSp] at h

/-- The row that an instruction's words match is the instruction itself, or CP Rd,#0 where it is CPCZ Rd (R189). -/
def IsRow (i j : Instr) : Prop := j = i ∨ ∃ rd, i = .cpczReg rd ∧ j = .cpSimm8 rd 0#8

def HasRow (i : Instr) : Prop := wellFormed i = true → ∀ rest, ∃ j, rowOf (encode i ++ rest) = some j ∧ IsRow i j

theorem hasRow_of_row {i : Instr} (h : wellFormed i = true → ∀ rest, rowOf (encode i ++ rest) = some i) : HasRow i :=
  fun hw rest => ⟨i, h hw rest, .inl rfl⟩

theorem hasRow_of_word {i : Instr} {w : Word} (henc : encode i = [w]) (hrow : ∀ w1 w2, decodeRow w w1 w2 = some i) :
    HasRow i :=
  hasRow_of_row fun _ rest => henc ▸ hrow (rest.getD 0 0#16) (rest.getD 1 0#16)

theorem rowOf_encode_ldSimm17 (rd : Reg) (imm : BitVec 17) (rest : List Word) :
    rowOf (encode (.ldSimm17 rd imm) ++ rest) = some (.ldSimm17 rd imm) := by
  have himm := append_parts17 imm
  obtain h | h := BitVec.eq_zero_or_eq_one (imm.extractLsb' 16 1) <;> rw [h] at himm <;>
    simp [rowOf, encode, decodeRow, decode4, h, himm]

theorem rowOf_encode_leaFp (rd : Reg) (off : BitVec 6) (rest : List Word) :
    rowOf (encode (.leaFp rd off) ++ rest) = some (.leaFp rd off) := by
  obtain h | h | h | h := twoBits_cases (off.extractLsb' 4 2) <;> simp [rowOf, encode, decodeRow, decode4, h]

theorem rowOf_encode_shiftRegInstr (op : ShiftOp) (rd rs : Reg) (rest : List Word) :
    rowOf (encode (shiftRegInstr op rd rs) ++ rest) = some (shiftRegInstr op rd rs) := by
  cases op <;> simp [rowOf, shiftRegInstr, encode, decodeRow, decodeB]

theorem rowOf_encode_shiftImmInstr (op : ShiftOp) (rd : Reg) (imm : BitVec 5) (rest : List Word) :
    rowOf (encode (shiftImmInstr op rd imm) ++ rest) = some (shiftImmInstr op rd imm) := by
  obtain h | h := BitVec.eq_zero_or_eq_one (imm.extractLsb' 4 1) <;> cases op <;>
    simp [rowOf, shiftImmInstr, encode, decodeRow, decodeB, h]

theorem decodeRow_calla (w1 w2 : Word) : decodeRow 0xF231#16 w1 w2 = some (.calla (w1 ++ w2)) := rfl

theorem hasRow (i : Instr) : HasRow i := by
  apply Machine.exec_by_operation (P := fun i _ _ => HasRow i) Machine.State.reset
  case bop => exact fun op f => hasRow_of_row fun _ rest => by rw [encode_bopInstr, rowOf_encodeBop]
  case uop => exact fun op z m => hasRow_of_row fun _ rest => by rw [encode_uopInstr, rowOf_encodeUop]
  case load =>
    exact fun k rd m => hasRow_of_row fun hw rest => by
      rw [encode_loadInstr, rowOf_encodeLoad k rd m (ne_postInc_of_wellFormed hw)]
  case store => exact fun z m rs => hasRow_of_row fun _ rest => by rw [encode_storeInstr, rowOf_encodeStore]
  case storeImm => exact fun m rd v => hasRow_of_row fun _ rest => by rw [encode_storeImmInstr, rowOf_encodeStoreImm]
  case pop => exact fun k rd => hasRow_of_row fun _ rest => rowOf_encode_popInstr k rd rest
  case shiftReg => exact fun op rd rs => hasRow_of_row fun _ rest => rowOf_encode_shiftRegInstr op rd rs rest
  case shiftImm => exact fun op rd imm => hasRow_of_row fun _ rest => rowOf_encode_shiftImmInstr op rd imm rest
  case ldSimm17 => exact fun rd imm => hasRow_of_row fun _ rest => rowOf_encode_ldSimm17 rd imm rest
  case leaFp => exact fun rd off => hasRow_of_row fun _ rest => rowOf_encode_leaFp rd off rest
  case cpczReg => exact fun rd _ rest => ⟨.cpSimm8 rd 0#8, by simp [rowOf, encode, decodeRow], .inr ⟨rd, rfl, rfl⟩⟩
  case jpa =>
    intro imm
    refine hasRow_of_row fun _ rest => ?_
    change decodeRow 0xF230#16 (imm.extractLsb' 16 16) (imm.extractLsb' 0 16) = _
    rw [Claims.decodeRow_jpa, append_halves]
  case calla =>
    intro imm
    refine hasRow_of_row fun _ rest => ?_
    change decodeRow 0xF231#16 (imm.extractLsb' 16 16) (imm.extractLsb' 0 16) = _
    rw [decodeRow_calla, append_halves]
  case pushf | popf | unlink | ill | ret | iret | brk | atm | noflags | extendPrefix | wdt | stop | halt | ei | di | nop =>
    exact hasRow_of_word rfl fun _ _ => rfl
  all_goals
    intros
    exact hasRow_of_row fun _ rest => by
      simp [rowOf, encode, quadWords, decodeRow, decode0, decode00, decode4, decodeA, decodeB, decodeF]

/-- An instruction has as many words as its first word says (R122). -/
theorem encode_length (i : Instr) : Laws.EncodeLength.Statement i := by
  open Laws in
  refine Machine.exec_by_operation (P := fun i _ _ => EncodeLength.Statement i) Machine.State.reset
    (addReg3 := EncodeLength.addReg3) (addSimm8 := EncodeLength.addSimm8) (cpSimm8 := EncodeLength.cpSimm8)
    (ldSimm8 := EncodeLength.ldSimm8) (ldSimm17 := EncodeLength.ldSimm17) (ldImm32 := EncodeLength.ldImm32)
    (ldReg := EncodeLength.ldReg) (ldCc := EncodeLength.ldCc) (ldes := EncodeLength.ldes)
    (leaPc := EncodeLength.leaPc) (leaInd := EncodeLength.leaInd) (leaFp := EncodeLength.leaFp)
    (extUB := EncodeLength.extUB) (extUW := EncodeLength.extUW) (extSB := EncodeLength.extSB)
    (extSW := EncodeLength.extSW) (com := EncodeLength.com) (neg := EncodeLength.neg)
    (pushBImm8 := EncodeLength.pushBImm8) (pushWSimm8 := EncodeLength.pushWSimm8)
    (pushSimm8 := EncodeLength.pushSimm8) (pushmLo := EncodeLength.pushmLo) (pushmHi := EncodeLength.pushmHi)
    (popmLo := EncodeLength.popmLo) (popmHi := EncodeLength.popmHi) (pushf := EncodeLength.pushf)
    (popf := EncodeLength.popf) (link := EncodeLength.link) (unlink := EncodeLength.unlink)
    (udiv := EncodeLength.udiv) (sdiv := EncodeLength.sdiv) (umul := EncodeLength.umul) (smul := EncodeLength.smul)
    (mul := EncodeLength.mul) (jpRel12 := EncodeLength.jpRel12) (jpRel24 := EncodeLength.jpRel24)
    (jpInd := EncodeLength.jpInd) (jpCcRel8 := EncodeLength.jpCcRel8) (jpCcRel16 := EncodeLength.jpCcRel16)
    (jpa := EncodeLength.jpa) (callRel12 := EncodeLength.callRel12) (callRel24 := EncodeLength.callRel24)
    (callInd := EncodeLength.callInd) (calla := EncodeLength.calla) (djnz := EncodeLength.djnz)
    (trap := EncodeLength.trap) (ill := EncodeLength.ill) (ret := EncodeLength.ret) (iret := EncodeLength.iret)
    (brk := EncodeLength.brk) (atm := EncodeLength.atm) (noflags := EncodeLength.noflags)
    (extendPrefix := EncodeLength.extend) (wdt := EncodeLength.wdt) (stop := EncodeLength.stop)
    (halt := EncodeLength.halt) (ei := EncodeLength.ei) (di := EncodeLength.di) (nop := EncodeLength.nop)
    (cpczReg := EncodeLength.cpczReg)
    (bop := fun op f => EncodeLength.of_encode _ (encode_bopInstr op f) (encodeBop_length op f))
    (uop := fun op z m => EncodeLength.of_encode _ (encode_uopInstr op z m) (encodeUop_length op z m))
    (load := fun k rd m => EncodeLength.of_encode _ (encode_loadInstr k rd m) (encodeLoad_length k rd m))
    (store := fun z m rs => EncodeLength.of_encode _ (encode_storeInstr z m rs) (encodeStore_length z m rs))
    (storeImm := fun m rd v => EncodeLength.of_encode _ (encode_storeImmInstr m rd v) (encodeStoreImm_length m rd v))
    (pop := fun k rd => ?_) (shiftReg := fun op rd rs => ?_) (shiftImm := fun op rd imm => ?_) i
  · cases k with
    | q => exact EncodeLength.pop rd
    | ub => exact EncodeLength.popUB rd
    | uw => exact EncodeLength.popUW rd
    | sb => exact EncodeLength.popSB rd
    | sw => exact EncodeLength.popSW rd
  · cases op with
    | sra => exact EncodeLength.sraReg rd rs
    | srl => exact EncodeLength.srlReg rd rs
    | sll => exact EncodeLength.sllReg rd rs
    | rl => exact EncodeLength.rlReg rd rs
  · cases op with
    | sra => exact EncodeLength.sraImm rd imm
    | srl => exact EncodeLength.srlImm rd imm
    | sll => exact EncodeLength.sllImm rd imm
    | rl => exact EncodeLength.rlImm rd imm

end Sys2Proof

/-! ### Decoding the bytes of an encoding -/

namespace Sys2Proof

theorem bytesToWords_flatMap_append (ws : List Word) (bs : List Byte) :
    bytesToWords (ws.flatMap wordBytes ++ bs) = ws ++ bytesToWords bs := by
  induction ws with
  | nil => rfl
  | cons w ws ih =>
    have hw : w.extractLsb' 8 8 ++ w.extractLsb' 0 8 = w := (List.cons.inj (Claims.bytesToWords_wordBytes w)).1
    simp [wordBytes, bytesToWords, hw, ih]

theorem instrWords_pos (w : Word) : 0 < instrWords w := by
  unfold instrWords
  repeat' split
  all_goals decide

theorem encode_ne_nil (i : Instr) : encode i ≠ [] := by
  intro h
  have hlen := encode_length i
  rw [Laws.EncodeLength.Statement, h] at hlen
  exact absurd hlen (Nat.ne_of_lt (instrWords_pos _))

/-- Words that are as many as their first one says, or more, decode to the row they match (R122, R185). -/
theorem decode_encodeBytes {i j : Instr} {rest : List Byte} (hrow : rowOf (encode i ++ bytesToWords rest) = some j)
    (ext : Bool) :
    decode ext (encodeBytes i ++ rest) =
      .whole (if ext then decodeExtended ((encode i).headD 0#16) j else .instr j) := by
  obtain ⟨w0, ws, henc⟩ := List.exists_cons_of_ne_nil (encode_ne_nil i)
  have hlen : ws.length + 1 = instrWords w0 := by
    have h := encode_length i
    rwa [Laws.EncodeLength.Statement, henc] at h
  rw [encodeBytes, decode, bytesToWords_flatMap_append]
  rw [rowOf] at hrow
  rw [henc] at hrow ⊢
  simp only [List.cons_append, List.length_append, List.getD_cons_zero, List.getD_cons_succ, List.headD_cons] at hrow ⊢
  rw [if_neg (by omega), decodeWords, hrow]

theorem needsExtend_eq_true {i : Instr} : needsExtend i = true ↔ ∃ rd, i = .cpczReg rd := by
  constructor
  · intro h
    unfold needsExtend at h
    split at h
    · exact ⟨_, rfl⟩
    · cases h
  · rintro ⟨rd, rfl⟩
    rfl

/-- Settles O1: the words of an instruction match its own row, but for CPCZ Rd, which is CP Rd,#0 behind the Extend latch. -/
theorem decodeEncode : Obligations.DecodeEncode := by
  intro i rest hw
  obtain ⟨j, hrow, hj⟩ := hasRow i hw (bytesToWords rest)
  rw [decode_encodeBytes hrow]
  obtain rfl | ⟨rd, rfl, rfl⟩ := hj
  · cases hext : needsExtend j
    · rfl
    · obtain ⟨rd, rfl⟩ := needsExtend_eq_true.1 hext
      rfl
  · rfl

/-! ### Behind the Extend prefix -/

open Claims

theorem decodeExtended_bopInstr {op : Bop} (h : op = .add ∨ op = .sub ∨ op = .cp) (f : BopForm) (w0 : Word) :
    decodeExtended w0 (bopInstr op f) = .instr (bopInstr op f) := by
  obtain rfl | rfl | rfl := h <;> cases f with
  | load k rd m => cases k <;> cases m <;> rfl
  | store z m rs => cases z <;> cases m <;> rfl
  | _ => rfl

theorem decodeExtended_uopInstr_cpz (z : Size) (m : UopMem) (w0 : Word) :
    decodeExtended w0 (uopInstr .cpz z m) = .instr (uopInstr .cpz z m) := by
  cases z <;> cases m <;> rfl

/-- Only CP Rd,#0 changes its constructor behind the prefix (R181, R215). -/
theorem extendedForm_eq_or_cpZero {i j : Instr} (h : ExtendedForm i j) : j = i ∨ ∃ rd, i = .cpSimm8 rd 0#8 := by
  cases h with
  | cpZero rd => exact .inr ⟨rd, rfl⟩
  | _ => exact .inl rfl

theorem decodeExtended_of_extendedForm {i j : Instr} (h : ExtendedForm i j) (w0 : Word) :
    decodeExtended w0 i = .instr j := by
  cases h with
  | add f => exact decodeExtended_bopInstr (.inl rfl) f w0
  | sub f => exact decodeExtended_bopInstr (.inr (.inl rfl)) f w0
  | cp f => exact decodeExtended_bopInstr (.inr (.inr rfl)) f w0
  | cpz z m => exact decodeExtended_uopInstr_cpz z m w0
  | cpSimm8 rd imm himm => exact if_neg himm
  | _ => rfl

theorem hasExtended_bopInstr {op : Bop} (hadd : op ≠ .add) (hsub : op ≠ .sub) (hcp : op ≠ .cp) (f : BopForm) :
    hasExtended (bopInstr op f) = false := by
  cases op with
  | add => exact absurd rfl hadd
  | sub => exact absurd rfl hsub
  | cp => exact absurd rfl hcp
  | and | or | xor | tm | tcm =>
    cases f with
    | load k rd m => cases k <;> cases m <;> rfl
    | store z m rs => cases z <;> cases m <;> rfl
    | _ => rfl

theorem hasExtended_uopInstr {op : Uop} (hcpz : op ≠ .cpz) (z : Size) (m : UopMem) :
    hasExtended (uopInstr op z m) = false := by
  cases op with
  | cpz => exact absurd rfl hcpz
  | clr | inc | dec => cases z <;> cases m <;> rfl

theorem hasExtended_loadInstr (k : LoadKind) (rd : Reg) (m : LoadMem) : hasExtended (loadInstr k rd m) = false := by
  cases k <;> cases m <;> rfl

theorem hasExtended_storeInstr (z : Size) (m : StoreMem) (rs : Reg) : hasExtended (storeInstr z m rs) = false := by
  cases z <;> cases m <;> rfl

theorem hasExtended_storeImmInstr (m : PtrMode) (rd : Reg) (v : StoreVal) :
    hasExtended (storeImmInstr m rd v) = false := by
  cases m <;> cases v <;> rfl

/-- The instructions with an extended form are those of the table (R181). -/
theorem exists_extendedForm_of_hasExtended (i : Instr) : hasExtended i = true → ∃ j, ExtendedForm i j := by
  apply Machine.exec_by_operation (P := fun i _ _ => hasExtended i = true → ∃ j, ExtendedForm i j) Machine.State.reset
  case bop =>
    intro op f h
    by_cases hadd : op = .add
    · exact hadd ▸ ⟨_, .add f⟩
    by_cases hsub : op = .sub
    · exact hsub ▸ ⟨_, .sub f⟩
    by_cases hcp : op = .cp
    · exact hcp ▸ ⟨_, .cp f⟩
    exact absurd h (Bool.not_eq_true _ ▸ hasExtended_bopInstr hadd hsub hcp f)
  case uop =>
    intro op z m h
    by_cases hcpz : op = .cpz
    · exact hcpz ▸ ⟨_, .cpz z m⟩
    exact absurd h (Bool.not_eq_true _ ▸ hasExtended_uopInstr hcpz z m)
  case load => exact fun k rd m h => absurd h (Bool.not_eq_true _ ▸ hasExtended_loadInstr k rd m)
  case store => exact fun z m rs h => absurd h (Bool.not_eq_true _ ▸ hasExtended_storeInstr z m rs)
  case storeImm => exact fun m rd v h => absurd h (Bool.not_eq_true _ ▸ hasExtended_storeImmInstr m rd v)
  case pop => exact fun k rd h => by cases k <;> cases h
  case shiftReg =>
    intro op rd rs h
    cases op with
    | sra => exact ⟨_, .sraReg rd rs⟩
    | srl => exact ⟨_, .srlReg rd rs⟩
    | sll => exact ⟨_, .sllReg rd rs⟩
    | rl => cases h
  case shiftImm => exact fun op rd imm h => by cases op <;> cases h
  case addReg3 => exact fun rd rs1 rs2 _ => ⟨_, .addReg3 rd rs1 rs2⟩
  case addSimm8 => exact fun rd imm _ => ⟨_, .addSimm8 rd imm⟩
  case cpSimm8 =>
    intro rd imm _
    by_cases himm : imm = 0#8
    · exact himm ▸ ⟨_, .cpZero rd⟩
    · exact ⟨_, .cpSimm8 rd imm himm⟩
  case udiv => exact fun rd rs _ => ⟨_, .udiv rd rs⟩
  case cpczReg => exact fun rd _ => ⟨_, .cpczReg rd⟩
  all_goals
    intros
    contradiction

theorem decodeExtended_undefined {i : Instr} {w0 : Word} (hform : ∀ j, ¬ExtendedForm i j) (hnoflags : i ≠ .noflags)
    (hextend : i ≠ .extend) (hill : i ≠ .ill) (hbrk : i ≠ .brk) : decodeExtended w0 i = .extendUndefined w0 := by
  have hno : hasExtended i = false := by
    rw [Bool.eq_false_iff]
    exact fun h => (exists_extendedForm_of_hasExtended i h).elim hform
  unfold decodeExtended
  split
  case h_5 rd imm =>
    by_cases himm : imm = 0#8
    · exact absurd (.cpZero rd) (himm ▸ hform _)
    · exact absurd (.cpSimm8 rd imm himm) (hform _)
  case h_6 => rw [hno]; rfl
  all_goals contradiction

theorem decode_extended {i : Instr} (hw : wellFormed i = true) :
    ∃ i', IsRow i i' ∧ decode true (encodeBytes i) = .whole (decodeExtended ((encode i).headD 0#16) i') := by
  obtain ⟨i', hrow, hi⟩ := hasRow i hw []
  have h := decode_encodeBytes (rest := []) hrow true
  rw [List.append_nil] at h
  exact ⟨i', hi, h⟩

/-- Settles O2: behind the latch the row is what R181 makes of it, and CPCZ Rd is the extended form of its row CP Rd,#0. -/
theorem extendedForms : Obligations.ExtendedForms := by
  intro i hw
  obtain ⟨i', hi, hdecode⟩ := decode_extended hw
  rw [hdecode]
  obtain rfl | ⟨rd, rfl, rfl⟩ := hi
  · refine ⟨fun j h => congrArg _ (decodeExtended_of_extendedForm h _), ?_,
      fun hform h1 h2 h3 h4 => congrArg _ (decodeExtended_undefined hform h1 h2 h3 h4)⟩
    rintro (rfl | rfl | rfl | rfl) <;> rfl
  · refine ⟨fun j h => ?_, by simp, fun hform => absurd (.cpczReg rd) (hform _)⟩
    obtain rfl | ⟨rd', h'⟩ := extendedForm_eq_or_cpZero h
    · rfl
    · cases h'

end Sys2Proof

/-! What every operation of the machine keeps: the device, memory's form and place, non-volatile bytes, the ATM count, an even
PC, a pending Stack Overflow request, and in an ATM window what the other agents present and plan. Each shared operation
once; the statements on steps are read from it. -/

namespace Sys2Proof.Machine

/-- What an operation keeps, whatever state it is run in. -/
structure Keeps (s t : State) : Prop where
  dev : t.dev = s.dev
  atm : t.atmCount = s.atmCount
  wf : Memory.wf s.mem → Memory.wf t.mem
  outsideIo : (∀ c ∈ s.mem, c.1 < ioBase s.dev) → ∀ c ∈ t.mem, c.1 < ioBase s.dev
  rom : ∀ (a : Quad) (p : Nat), locate s.dev a = .readOnly p → byteAt a t = byteAt a s
  window : s.atmCount ≠ 0 → t.pending = s.pending ∧ t.dmaPlan = s.dmaPlan ∧ t.dmaSeen = s.dmaSeen
  even : s.pc.getLsbD 0 = false → t.pc.getLsbD 0 = false
  request : s.spovReq = true → t.spovReq = true

theorem Keeps.refl (s : State) : Keeps s s :=
  ⟨rfl, rfl, id, id, fun _ _ _ => rfl, fun _ => ⟨rfl, rfl, rfl⟩, id, id⟩

theorem Keeps.trans {s t u : State} (h : Keeps s t) (k : Keeps t u) : Keeps s u where
  dev := k.dev.trans h.dev
  atm := k.atm.trans h.atm
  wf := k.wf ∘ h.wf
  outsideIo hs := h.dev ▸ k.outsideIo (h.dev.symm ▸ h.outsideIo hs)
  rom a p ha := (k.rom a p (h.dev.symm ▸ ha)).trans (h.rom a p ha)
  window hs := by
    obtain ⟨h1, h2, h3⟩ := h.window hs
    obtain ⟨k1, k2, k3⟩ := k.window (h.atm.symm ▸ hs)
    exact ⟨k1.trans h1, k2.trans h2, k3.trans h3⟩
  even := k.even ∘ h.even
  request := k.request ∘ h.request

/-- A non-volatile byte is read from memory. -/
theorem byteAt_readOnly {a : Quad} {p : Nat} {s t : State} (ha : locate s.dev a = .readOnly p) (hdev : t.dev = s.dev)
    (hmem : t.mem = s.mem) : byteAt a t = byteAt a s := by
  unfold byteAt
  rw [hdev, ha, hmem]

/-- An operation that leaves memory and what the other agents present and plan. -/
theorem Keeps.of_mem {s t : State} (dev : t.dev = s.dev) (atm : t.atmCount = s.atmCount) (mem : t.mem = s.mem)
    (pending : t.pending = s.pending) (plan : t.dmaPlan = s.dmaPlan) (seen : t.dmaSeen = s.dmaSeen)
    (even : s.pc.getLsbD 0 = false → t.pc.getLsbD 0 = false) (request : s.spovReq = true → t.spovReq = true) :
    Keeps s t where
  dev := dev
  atm := atm
  wf := by rw [mem]; exact id
  outsideIo := by rw [mem]; exact id
  rom _ _ ha := byteAt_readOnly ha dev mem
  window _ := ⟨pending, plan, seen⟩
  even := even
  request := request

/-! ### Registers, flags and the PC -/

theorem keeps_writeReg (s : State) (r : Reg) (v : Quad) : Keeps s (s.writeReg r v) :=
  .of_mem rfl rfl rfl rfl rfl rfl id fun h => by rw [writeReg_spovReq, h, Bool.true_or]

theorem keeps_setFlags (s : State) (p : FlagPatch) : Keeps s (s.setFlags p) := by
  apply Keeps.of_mem <;> simp

theorem keeps_writeReg_setFlags (s : State) (r : Reg) (v : Quad) (p : FlagPatch) :
    Keeps s ((s.writeReg r v).setFlags p) :=
  (keeps_writeReg s r v).trans (keeps_setFlags _ p)

theorem keeps_withFlags (s : State) (f : Byte) : Keeps s { s with flags := f } :=
  .of_mem rfl rfl rfl rfl rfl rfl id id

theorem keeps_clearLatches (s : State) : Keeps s (clearLatches s) := .of_mem rfl rfl rfl rfl rfl rfl id id
theorem keeps_copyIrqe (s : State) : Keeps s (copyIrqe s) := keeps_withFlags s _
theorem keeps_excIrqe (s : State) : Keeps s (excIrqe s) := by
  apply Keeps.of_mem <;> simp

/-- A jump after an operation, to an even target where the PC was even before it. -/
theorem Keeps.jumpTo {q : Quad} {s u : State} (h : Keeps s u) (hq : s.pc.getLsbD 0 = false → q.getLsbD 0 = false) :
    Keeps s (jumpTo q u) :=
  ⟨h.dev, h.atm, h.wf, h.outsideIo, h.rom, h.window, hq, h.request⟩

theorem keeps_jumpTo {q : Quad} (s : State) (h : s.pc.getLsbD 0 = false → q.getLsbD 0 = false) : Keeps s (jumpTo q s) :=
  (Keeps.refl s).jumpTo h

theorem keeps_loadPc {q : Quad} {s t : State} (h : loadPc q s = .next t) : Keeps s t := by
  obtain ⟨hq, rfl⟩ := loadPc_eq_next.1 h
  exact keeps_jumpTo s fun _ => hq

/-! ### Memory -/

/-- What an access can change, where in an ATM window it leaves the plan and the record of the DMA controller. -/
theorem MemoryOnly.keeps {s t : State} (h : MemoryOnly s t)
    (window : s.atmCount ≠ 0 → t.dmaPlan = s.dmaPlan ∧ t.dmaSeen = s.dmaSeen) : Keeps s t := by
  obtain ⟨⟨_, _, _, _, _, _, _, _, _, rfl⟩, wf, outsideIo, rom⟩ := h
  exact ⟨rfl, rfl, wf, outsideIo, rom, fun hs => ⟨rfl, window hs⟩, id, id⟩

theorem keeps_putByte (a : Quad) (v : Byte) (s : State) : Keeps s (putByte a v s) :=
  (putByte_memoryOnly a v s).keeps fun _ => ⟨putByte_dmaPlan a v s, putByte_dmaSeen a v s⟩

theorem keeps_putValue (z : Size) (a : Quad) (v : BitVec (Size.bits z)) (s : State) : Keeps s (putValue z a v s) := by
  cases z
  · exact keeps_putByte a _ s
  · exact (keeps_putByte a _ s).trans (keeps_putByte _ _ _)
  · exact (((keeps_putByte a _ s).trans (keeps_putByte _ _ _)).trans (keeps_putByte _ _ _)).trans (keeps_putByte _ _ _)

theorem keeps_push {z : Size} {v : BitVec (Size.bits z)} {s t : State} (h : push z v s = .next t) : Keeps s t := by
  obtain ⟨-, rfl⟩ := push_eq_next.1 h
  exact (keeps_writeReg s spReg _).trans (keeps_putValue z _ v _)

theorem keeps_jumpThrough {v : Quad} {s t : State} (h : jumpThrough v s = .next t) : Keeps s t := by
  obtain ⟨-, hv, rfl⟩ := jumpThrough_eq_next.1 h
  exact keeps_jumpTo s fun _ => hv

theorem keeps_dmaTurn {s t : State} (h : dmaTurn s = .next t) : Keeps s t :=
  (dmaTurn_memoryOnly h).keeps fun hs => by
    rw [dmaTurn_undisturbed (.inl hs)] at h
    injection h with h
    exact h ▸ ⟨rfl, rfl⟩

theorem keeps_busRead {z : Size} {a : Quad} {s : State} {x : BitVec (Size.bits z) × State}
    (h : busRead z a s = .next x) : Keeps s x.2 :=
  (busRead_memoryOnly h).keeps fun hs => by
    obtain ⟨-, rfl⟩ := (busRead_eq_next (.inl hs)).1 h
    exact ⟨rfl, rfl⟩

theorem keeps_busWrite {z : Size} {a : Quad} {v : BitVec (Size.bits z)} {s t : State} (h : busWrite z a v s = .next t) :
    Keeps s t :=
  (busWrite_memoryOnly h).keeps fun hs => by
    obtain ⟨-, rfl⟩ := (busWrite_eq_next (.inl hs)).1 h
    exact ⟨putValue_dmaPlan z a v s, putValue_dmaSeen z a v s⟩

theorem keeps_busWriteDown {z : Size} {a : Quad} {v : BitVec (Size.bits z)} {s t : State}
    (h : busWriteDown z a v s = .next t) : Keeps s t :=
  (busWriteDown_memoryOnly h).keeps fun hs => busWriteDown_quiet (.inl hs) h

theorem keeps_busPush {z : Size} {v : BitVec (Size.bits z)} {s t : State} (h : busPush z v s = .next t) : Keeps s t :=
  (keeps_writeReg s spReg _).trans (keeps_busWriteDown h)

theorem keeps_busJump {v : Quad} {s t : State} (h : busJump v s = .next t) : Keeps s t := by
  obtain ⟨r, hr, ht⟩ := andThen_eq_next.1 h
  exact (keeps_busRead hr).trans (keeps_loadPc ht)

/-! ### Exceptions, interrupts and returns -/

theorem keeps_takeException {e : SysExc} {p : Quad} {s t : State} (h : takeException e p s = .next t) : Keeps s t := by
  obtain ⟨s1, s2, h1, h2, h3⟩ := takeException_eq_next.1 h
  have hbit : Keeps s { s with sysexcp := setExcBit e s.sysexcp } := .of_mem rfl rfl rfl rfl rfl rfl id id
  exact (hbit.trans (keeps_push h1)).trans <| (keeps_copyIrqe s1).trans <| (keeps_push h2).trans <|
    (keeps_excIrqe s2).trans (keeps_jumpThrough h3)

theorem keeps_raiseOnce {e : SysExc} {s t : State} (h : raiseOnce e s = .next t) : Keeps s t := by
  cases hbit : excBit e s.sysexcp
  · rw [raiseOnce_clear hbit] at h
    exact keeps_takeException h
  · rw [raiseOnce_set hbit] at h
    exact next_inj.1 h ▸ Keeps.refl s

theorem keeps_illegalInstruction {p : Quad} {s t : State} (h : illegalInstruction p s = .next t) : Keeps s t := by
  cases hill : s.sysexcp.ill
  · rw [illegalInstruction_clear hill] at h
    exact (keeps_clearLatches s).trans (keeps_takeException h)
  · rw [illegalInstruction_set hill] at h
    exact (keeps_clearLatches s).trans <| (keeps_copyIrqe _).trans <| (keeps_excIrqe _).trans (keeps_jumpThrough h)

/-- An interrupt entry takes the request off the list at its end, and keeps the rest. -/
theorem keeps_interruptEntry {q : IrqRequest} {s t : State} (h : interruptEntry q s = .next t) :
    ∃ u, Keeps s u ∧ t = acceptHead u := by
  obtain ⟨s1, s2, s3, s4, s5, s6, s7, h1, h2, h3, h4, h5, h6, h7, rfl⟩ := interruptEntry_eq_next.1 h
  exact ⟨s7, (keeps_push h1).trans <| (keeps_push h2).trans <| (keeps_push h3).trans <| (keeps_copyIrqe s3).trans <|
    (keeps_push h4).trans <| (keeps_push h5).trans <| (keeps_push h6).trans <| (keeps_withFlags s6 _).trans <|
    keeps_jumpThrough h7, rfl⟩

theorem keeps_normalReturn {s t : State} (h : normalReturn s = .next t) : Keeps s t := by
  obtain ⟨r, hr, h⟩ := andThen_eq_next.1 h
  obtain ⟨f, hf, h⟩ := andThen_eq_next.1 h
  exact (keeps_busRead hr).trans <| (keeps_writeReg _ _ _).trans <| (keeps_busRead hf).trans <|
    (keeps_writeReg _ _ _).trans <| (keeps_withFlags _ _).trans (keeps_loadPc h)

/-- No IRET is chained in an ATM window (D26). -/
theorem chainRequest_in_window {s : State} (h : s.atmCount ≠ 0) : chainRequest s = none := by
  rw [Option.eq_none_iff_forall_ne_some]
  intro q hq
  obtain ⟨-, hatm, -⟩ := chainRequest_eq_some.1 hq
  exact h hatm

/-- Outside an ATM window, where the list of requests is free to change. -/
theorem keeps_acceptHead {s t : State} (h : Keeps s t) (hatm : s.atmCount = 0) : Keeps s (acceptHead t) :=
  { h with window := fun hs => absurd hatm hs }

theorem keeps_returnFromInterrupt {s t : State} (h : returnFromInterrupt s = .next t) : Keeps s t := by
  cases hq : chainRequest s with
  | none =>
    rw [returnFromInterrupt_none hq] at h
    exact keeps_normalReturn h
  | some q =>
    rw [returnFromInterrupt_some hq] at h
    obtain ⟨u, hu, rfl⟩ := andThen_next_eq_next.1 h
    obtain ⟨-, hatm, -⟩ := chainRequest_eq_some.1 hq
    exact keeps_acceptHead ((keeps_withFlags s _).trans (keeps_busJump hu)) hatm

/-! ### The operations of the instructions -/

theorem keeps_bopReg {op : Bop} {rd : Reg} {b : Quad} {old : Byte} {s t : State} (h : bopReg op rd b old s = .next t) :
    Keeps s t := by
  rw [bopReg_eq, next_inj] at h
  subst h
  split
  · exact keeps_writeReg_setFlags s rd _ _
  · exact keeps_setFlags s _

theorem keeps_bopMem {op : Bop} {z : Size} {ea : Quad} {b : BitVec (Size.bits z)} {s t : State}
    (h : bopMem op z ea b s = .next t) : Keeps s t := by
  obtain ⟨a, ha, h⟩ := andThen_eq_next.1 h
  refine (keeps_busRead ha).trans ?_
  dsimp only at h
  split at h
  · obtain ⟨u, hu, rfl⟩ := andThen_next_eq_next.1 h
    exact (keeps_busWrite hu).trans (keeps_setFlags u _)
  · exact next_inj.1 h ▸ keeps_setFlags a.2 _

theorem keeps_bop {op : Bop} {f : BopForm} {s t : State} (h : bop op f s = .next t) : Keeps s t := by
  cases f with
  | imm32 rd imm | uimm16 rd imm | reg rd rs => exact keeps_bopReg h
  | load k rd m =>
    obtain ⟨v, hv, h⟩ := andThen_eq_next.1 h
    exact (keeps_busRead hv).trans (keeps_bopReg h)
  | store z m rs | memImm32 rd imm | memSimm16 rd imm | memWImm16 rd imm | memBImm8 rd imm => exact keeps_bopMem h

theorem keeps_uop {op : Uop} {z : Size} {m : UopMem} {s t : State} (h : uop op z m s = .next t) : Keeps s t := by
  cases op with
  | clr => exact keeps_busWrite h
  | cpz =>
    obtain ⟨a, ha, rfl⟩ := andThen_next_eq_next.1 h
    exact (keeps_busRead ha).trans (keeps_setFlags a.2 _)
  | inc | dec =>
    obtain ⟨a, ha, h⟩ := andThen_eq_next.1 h
    obtain ⟨u, hu, rfl⟩ := andThen_next_eq_next.1 h
    exact (keeps_busRead ha).trans <| (keeps_busWrite hu).trans (keeps_setFlags u _)

theorem keeps_load {k : LoadKind} {rd : Reg} {m : LoadMem} {s t : State} (h : load k rd m s = .next t) : Keeps s t := by
  unfold load at h
  split at h
  · cases h
  · obtain ⟨v, hv, rfl⟩ := andThen_next_eq_next.1 h
    have hupdate : Keeps v.2 (loadUpdate k m v.2) := by
      cases m with
      | postInc rs => exact keeps_writeReg v.2 rs _
      | _ => exact Keeps.refl v.2
    exact (keeps_busRead hv).trans (hupdate.trans (keeps_writeReg_setFlags _ rd _ _))

theorem keeps_storeBefore (z : Size) (m : StoreMem) (s : State) : Keeps s (storeBefore z m s) := by
  cases m with
  | preDec rd => exact keeps_writeReg s rd _
  | _ => exact Keeps.refl s

theorem keeps_storeAfter (z : Size) (m : StoreMem) (s : State) : Keeps s (storeAfter z m s) := by
  cases m with
  | postInc rd => exact keeps_writeReg s rd _
  | _ => exact Keeps.refl s

theorem keeps_storeDatum {z : Size} {m : StoreMem} {v : BitVec (Size.bits z)} {s t : State}
    (h : storeDatum z m v s = .next t) : Keeps s t := by
  cases m with
  | preDec rd => exact keeps_busWriteDown h
  | _ => exact keeps_busWrite h

theorem keeps_store {z : Size} {m : StoreMem} {rs : Reg} {s t : State} (h : store z m rs s = .next t) : Keeps s t := by
  obtain ⟨u, hu, rfl⟩ := andThen_next_eq_next.1 h
  exact (keeps_storeBefore z m s).trans <| (keeps_storeDatum hu).trans (keeps_storeAfter z m u)

theorem keeps_storeConst {z : Size} {m : StoreMem} {v : BitVec (Size.bits z)} {s t : State}
    (h : storeConst z m v s = .next t) : Keeps s t := by
  obtain ⟨u, hu, rfl⟩ := andThen_next_eq_next.1 h
  exact (keeps_storeBefore z m s).trans <| (keeps_storeDatum hu).trans (keeps_storeAfter z m u)

theorem keeps_storeImm {m : PtrMode} {rd : Reg} {v : StoreVal} {s t : State} (h : storeImm m rd v s = .next t) :
    Keeps s t := by
  cases v <;> exact keeps_storeConst h

theorem keeps_pushMultiple {rs : List Reg} {s t : State} (h : pushMultiple rs s = .next t) : Keeps s t := by
  induction rs generalizing s with
  | nil => exact next_inj.1 h ▸ Keeps.refl s
  | cons r rs ih =>
    obtain ⟨u, hu, h⟩ := andThen_eq_next.1 h
    exact (keeps_writeReg s spReg _).trans <| (keeps_busWriteDown hu).trans (ih h)

theorem keeps_popLoop {rs : List Reg} {last : Option Quad} {s : State} {x : State × Option Quad}
    (h : popLoop rs last s = .next x) : Keeps s x.1 := by
  induction rs generalizing s last with
  | nil => exact next_inj.1 h ▸ Keeps.refl s
  | cons r rs ih =>
    obtain ⟨v, hv, h⟩ := andThen_eq_next.1 h
    exact (keeps_busRead hv).trans <| (keeps_writeReg v.2 r _).trans <| (keeps_writeReg _ spReg _).trans (ih h)

theorem keeps_popMultiple {rs : List Reg} {s t : State} (h : popMultiple rs s = .next t) : Keeps s t := by
  unfold popMultiple at h
  split at h
  · cases h
  · obtain ⟨x, hx, h⟩ := andThen_eq_next.1 h
    refine (keeps_popLoop hx).trans ?_
    split at h
    · exact next_inj.1 h ▸ Keeps.refl x.1
    · exact next_inj.1 h ▸ keeps_setFlags x.1 _

theorem keeps_popFlags {s t : State} (h : popFlags s = .next t) : Keeps s t := by
  obtain ⟨f, hf, rfl⟩ := andThen_next_eq_next.1 h
  exact (keeps_busRead hf).trans <| (keeps_writeReg f.2 spReg _).trans (keeps_withFlags _ _)

theorem keeps_linkFrame {imm : BitVec 8} {s t : State} (h : linkFrame imm s = .next t) : Keeps s t := by
  obtain ⟨u, hu, rfl⟩ := linkFrame_eq_next.1 h
  exact (keeps_busPush hu).trans <| (keeps_writeReg u fpReg _).trans (keeps_writeReg _ spReg _)

theorem keeps_unlinkFrame {s t : State} (h : unlinkFrame s = .next t) : Keeps s t := by
  obtain ⟨v, hv, rfl⟩ := andThen_next_eq_next.1 h
  exact (keeps_writeReg s spReg _).trans <| (keeps_busRead hv).trans <| (keeps_writeReg v.2 fpReg _).trans
    (keeps_writeReg _ spReg _)

theorem keeps_putQuotient (rq : Reg) (q : Quad) (rt : Reg) (t : Quad) (v : Bool) (s : State) :
    Keeps s (putQuotient rq q rt t v s) :=
  (keeps_writeReg s rq q).trans (keeps_writeReg_setFlags _ rt t _)

theorem keeps_divide64 {rd rs : Reg} {s t : State} (h : divide64 rd rs s = .next t) : Keeps s t := by
  unfold divide64 at h
  dsimp only at h
  split at h
  · cases h
  split at h
  · exact keeps_raiseOnce h
  split at h
  · exact keeps_raiseOnce h
  · exact next_inj.1 h ▸ keeps_putQuotient _ _ _ _ _ s

theorem keeps_divideUnsigned {rd rs : Reg} {s t : State} (h : divideUnsigned rd rs s = .next t) : Keeps s t := by
  unfold divideUnsigned at h
  split at h
  · exact keeps_divide64 h
  split at h
  · cases h
  split at h
  · exact keeps_raiseOnce h
  · exact next_inj.1 h ▸ keeps_putQuotient _ _ _ _ _ s

theorem keeps_divideSigned {rd rs : Reg} {s t : State} (h : divideSigned rd rs s = .next t) : Keeps s t := by
  unfold divideSigned at h
  split at h
  · cases h
  split at h
  · exact keeps_raiseOnce h
  split at h <;> exact next_inj.1 h ▸ keeps_putQuotient _ _ _ _ _ s

theorem keeps_multiplyWide {signed : Bool} {rd rs : Reg} {s t : State} (h : multiplyWide signed rd rs s = .next t) :
    Keeps s t := by
  unfold multiplyWide at h
  split at h
  · cases h
  · exact next_inj.1 h ▸ (keeps_writeReg s rd _).trans (keeps_writeReg_setFlags _ rs _ _)

theorem keeps_shiftReg {op : ShiftOp} {rd rs : Reg} {s t : State} (h : shiftReg op rd rs s = .next t) : Keeps s t := by
  unfold shiftReg at h
  split at h
  · split at h
    · cases h
    · exact next_inj.1 h ▸ (keeps_writeReg s rd _).trans (keeps_writeReg_setFlags _ rs _ _)
  · exact next_inj.1 h ▸ keeps_writeReg_setFlags s rd _ _

/-! ### Jumps keep the PC even -/

theorem evenAddress_even (q : Quad) : (evenAddress q).getLsbD 0 = false := by
  rw [evenAddress, BitVec.getLsbD_and]
  exact Bool.and_false _

/-- An even number is added to an even one. -/
theorem add_even {a b : Quad} (ha : a.getLsbD 0 = false) (hb : b.getLsbD 0 = false) : (a + b).getLsbD 0 = false := by
  simp only [BitVec.getLsbD, Nat.testBit_zero, decide_eq_false_iff_not, BitVec.toNat_add] at *
  omega

theorem two_mul_even (a : Quad) : (2#32 * a).getLsbD 0 = false := by
  simp only [BitVec.getLsbD, Nat.testBit_zero, decide_eq_false_iff_not, BitVec.toNat_mul, BitVec.toNat_ofNat]
  omega

theorem relTarget_even {n : Nat} {pc : Quad} (rel : BitVec n) (h : pc.getLsbD 0 = false) :
    (relTarget pc rel).getLsbD 0 = false := add_even h (two_mul_even _)

theorem keeps_jumpRelative {n : Nat} {rel : BitVec n} {s t : State} (h : jumpRelative rel s = .next t) : Keeps s t :=
  next_inj.1 h ▸ keeps_jumpTo s (relTarget_even rel)

theorem keeps_jumpConditional {n : Nat} {cc : CC} {rel : BitVec n} {s t : State}
    (h : jumpConditional cc rel s = .next t) : Keeps s t := by
  unfold jumpConditional at h
  split at h
  · exact keeps_jumpRelative h
  · exact next_inj.1 h ▸ Keeps.refl s

theorem keeps_callRelative {n : Nat} {rel : BitVec n} {s t : State} (h : callRelative rel s = .next t) : Keeps s t := by
  obtain ⟨u, hu, rfl⟩ := andThen_next_eq_next.1 h
  exact (keeps_busPush hu).jumpTo (relTarget_even rel)

theorem keeps_callRegister {rs : Reg} {s t : State} (h : callRegister rs s = .next t) : Keeps s t := by
  obtain ⟨u, hu, rfl⟩ := andThen_next_eq_next.1 h
  exact (keeps_busPush hu).jumpTo fun _ => evenAddress_even _

theorem keeps_callAbsolute {imm : Quad} {s t : State} (h : callAbsolute imm s = .next t) : Keeps s t := by
  obtain ⟨u, hu, rfl⟩ := andThen_next_eq_next.1 h
  exact (keeps_busPush hu).jumpTo fun _ => evenAddress_even _

theorem keeps_returnFromCall {s t : State} (h : returnFromCall s = .next t) : Keeps s t := by
  obtain ⟨r, hr, h⟩ := andThen_eq_next.1 h
  exact (keeps_busRead hr).trans <| (keeps_writeReg r.2 spReg _).trans (keeps_loadPc h)

theorem djnzTarget_even (rel : BitVec 4) {pc : Quad} (h : pc.getLsbD 0 = false) :
    (pc - 32#32 + 2#32 * rel.setWidth 32).getLsbD 0 = false :=
  add_even (BitVec.sub_eq_add_neg pc _ ▸ add_even h (by decide)) (two_mul_even _)

theorem keeps_decrementJump {rd : Reg} {rel : BitVec 4} {s t : State} (h : decrementJump rd rel s = .next t) :
    Keeps s t := by
  have hdec : Keeps s (Claims.decremented rd s) := keeps_writeReg_setFlags s rd _ _
  rw [Claims.decrementJump_eq] at h
  split at h
  · exact next_inj.1 h ▸ hdec
  · exact next_inj.1 h ▸ hdec.jumpTo (djnzTarget_even rel)

theorem keeps_softwareTrap {vec : BitVec 8} {s t : State} (h : softwareTrap vec s = .next t) : Keeps s t := by
  obtain ⟨s1, h1, h⟩ := andThen_eq_next.1 h
  obtain ⟨s2, h2, h⟩ := andThen_eq_next.1 h
  exact (keeps_busPush h1).trans <| (keeps_busPush h2).trans (keeps_busJump h)

theorem keeps_breakPoint {s t : State} (h : breakPoint s = .next t) : Keeps s t := by
  unfold breakPoint at h
  split at h
  · split at h
    · cases h
    · have hown (hs : s.pc.getLsbD 0 = false) : (ownAddress s).getLsbD 0 = false := by
        rw [ownAddress, BitVec.sub_eq_add_neg]
        exact add_even hs (by decide)
      exact next_inj.1 h ▸ .of_mem rfl rfl rfl rfl rfl rfl hown id
  · exact keeps_illegalInstruction h

/-! ### Every instruction but ATM, which sets the count -/

theorem keeps_exec {i : Instr} {s t : State} (hatm : i ≠ .atm) (h : exec i s = .next t) : Keeps s t := by
  refine (?_ : i ≠ .atm → ∀ {t}, exec i s = .next t → Keeps s t) hatm h
  apply exec_by_operation (P := fun i s x => i ≠ .atm → ∀ {t}, x = .next t → Keeps s t) s
  case bop => exact fun _ _ _ _ => keeps_bop
  case uop => exact fun _ _ _ _ _ => keeps_uop
  case load => exact fun _ _ _ _ _ => keeps_load
  case store => exact fun _ _ _ _ _ => keeps_store
  case storeImm => exact fun _ _ _ _ _ => keeps_storeImm
  case addSimm8 | cpSimm8 => exact fun _ _ _ _ => keeps_bopReg
  case cpczReg => exact fun _ _ _ h => next_inj.1 h ▸ keeps_setFlags s _
  case ldSimm8 | ldSimm17 | ldImm32 | ldReg | ldCc | leaPc | leaFp =>
    exact fun _ _ _ _ h => next_inj.1 h ▸ keeps_writeReg s _ _
  case leaInd => exact fun _ _ _ _ _ h => next_inj.1 h ▸ keeps_writeReg s _ _
  case ldes => exact fun _ _ _ h => next_inj.1 h ▸ keeps_writeReg s _ _
  case addReg3 => exact fun _ _ _ _ _ h => next_inj.1 h ▸ keeps_writeReg_setFlags s _ _ _
  case extUB | extUW | extSB | extSW | mul => exact fun _ _ _ _ h => next_inj.1 h ▸ keeps_writeReg_setFlags s _ _ _
  case com | neg => exact fun _ _ _ h => next_inj.1 h ▸ keeps_writeReg_setFlags s _ _ _
  case pushBImm8 | pushWSimm8 | pushSimm8 => exact fun _ _ _ => keeps_busPush
  case pushf => exact fun _ _ => keeps_busPush
  case pop => exact fun _ _ _ _ => keeps_load
  case pushmLo | pushmHi => exact fun _ _ _ => keeps_pushMultiple
  case popmLo | popmHi => exact fun _ _ _ => keeps_popMultiple
  case popf => exact fun _ _ => keeps_popFlags
  case link => exact fun _ _ _ => keeps_linkFrame
  case unlink => exact fun _ _ => keeps_unlinkFrame
  case udiv => exact fun _ _ _ _ => keeps_divideUnsigned
  case sdiv => exact fun _ _ _ _ => keeps_divideSigned
  case umul | smul => exact fun _ _ _ _ => keeps_multiplyWide
  case shiftReg => exact fun _ _ _ _ _ => keeps_shiftReg
  case shiftImm => exact fun _ _ _ _ _ h => next_inj.1 h ▸ keeps_writeReg_setFlags s _ _ _
  case jpRel12 | jpRel24 => exact fun _ _ _ => keeps_jumpRelative
  case jpInd | jpa => exact fun _ _ _ h => next_inj.1 h ▸ keeps_jumpTo s fun _ => evenAddress_even _
  case jpCcRel8 | jpCcRel16 => exact fun _ _ _ _ => keeps_jumpConditional
  case callRel12 | callRel24 => exact fun _ _ _ => keeps_callRelative
  case callInd => exact fun _ _ _ => keeps_callRegister
  case calla => exact fun _ _ _ => keeps_callAbsolute
  case djnz => exact fun _ _ _ _ => keeps_decrementJump
  case trap => exact fun _ _ _ => keeps_softwareTrap
  case ill => exact fun _ _ => keeps_illegalInstruction
  case ret => exact fun _ _ => keeps_returnFromCall
  case iret => exact fun _ _ => keeps_returnFromInterrupt
  case brk => exact fun _ _ => keeps_breakPoint
  case atm => exact fun h => absurd rfl h
  case noflags | extendPrefix | wdt | stop | halt => exact fun _ _ h => next_inj.1 h ▸ .of_mem rfl rfl rfl rfl rfl rfl id id
  case ei | di => exact fun _ _ h => next_inj.1 h ▸ keeps_withFlags s _
  case nop => exact fun _ _ h => next_inj.1 h ▸ Keeps.refl s

end Sys2Proof.Machine

/-! One step of the running CPU: the fetch of the instruction at the PC, what a step keeps of memory and of the device, the
PC, the ATM count, the latches, and what an ATM window keeps out. -/

namespace Sys2Proof.Machine

/-! ### Fetch -/

theorem keeps_fetchWord {a : Quad} {s : State} {x : Word × State} (h : fetchWord a s = .next x) : Keeps s x.2 :=
  (fetchWord_memoryOnly h).2.keeps fun hs => by
    obtain ⟨-, -, -, rfl⟩ := (fetchWord_eq_next (.inl hs)).1 h
    exact ⟨rfl, rfl⟩

theorem keeps_fetchIf {b : Bool} {a : Quad} {s : State} {x : Word × State} (h : fetchIf b a s = .next x) : Keeps s x.2 := by
  cases b
  · exact next_inj.1 h ▸ Keeps.refl s
  · exact keeps_fetchWord h

theorem keeps_fetchRest {w0 : Word} {s : State} {x : Fetched × State} (h : fetchRest w0 s = .next x) : Keeps s x.2 := by
  obtain ⟨w1, h1, h⟩ := andThen_eq_next.1 h
  obtain ⟨w2, h2, h⟩ := andThen_eq_next.1 h
  exact next_inj.1 h ▸ (keeps_fetchIf h1).trans (keeps_fetchIf h2)

theorem instrWords_le (w : Word) : instrWords w ≤ 3 := by
  unfold instrWords
  repeat' split
  all_goals decide

theorem two_mul_ofNat_even (n : Nat) : (BitVec.ofNat 32 (2 * n)).getLsbD 0 = false := by
  rw [BitVec.getLsbD_ofNat, Nat.testBit_zero]
  simp

theorem afterInstr_even {pc : Quad} (w0 : Word) (h : pc.getLsbD 0 = false) : (afterInstr pc w0).getLsbD 0 = false :=
  add_even h (two_mul_ofNat_even _)

/-! ### The body of a step -/

theorem executeWords_eq_next {f : Fetched} {s u : State} :
    executeWords f s = .next u ↔
      (∃ i t, decodeWords s.extPending f.w0 f.w1 f.w2 = .instr i ∧
        exec i { s with pc := afterInstr s.pc f.w0 } = .next t ∧ u = retire i t) ∨
      ∃ w, decodeWords s.extPending f.w0 f.w1 f.w2 = .illegal w ∧ illegalInstruction s.pc s = .next u := by
  unfold executeWords
  cases decodeWords s.extPending f.w0 f.w1 f.w2 with
  | instr i => simp [executeInstr, andThen_next_eq_next]
  | illegal w => simp
  | extendUndefined w => simp

/-- What a step of the running CPU does between the fetch and the stack check: it takes an exception in place of the
instruction, or executes it and updates the latches. -/
inductive Executed (s : State) : State → Prop where
  | trapped {u : State} (keeps : Keeps s u) : Executed s u
  | retired {v x : State} (i : Instr) (keeps : Keeps s v) (run : exec i v = .next x) : Executed s (retire i x)

theorem keeps_withPc {q : Quad} (s : State) (h : s.pc.getLsbD 0 = false → q.getLsbD 0 = false) :
    Keeps s { s with pc := q } := .of_mem rfl rfl rfl rfl rfl rfl h id

theorem keeps_skipOverflow {w0 : Word} {s t : State} (h : skipOverflow w0 s = .next t) : Keeps s t :=
  (keeps_withPc s (afterInstr_even w0)).trans <| (keeps_clearLatches _).trans (keeps_takeException h)

theorem executed_executeWords {f : Fetched} {s v u : State} (hv : Keeps s v) (h : executeWords f v = .next u) :
    Executed s u := by
  obtain ⟨i, x, -, hx, rfl⟩ | ⟨w, -, hu⟩ := executeWords_eq_next.1 h
  · exact .retired i (hv.trans (keeps_withPc v (afterInstr_even f.w0))) hx
  · exact .trapped (hv.trans (keeps_illegalInstruction hu))

/-- ATM apart, every instruction keeps the ATM count. -/
theorem exec_atmCount {i : Instr} {s t : State} (h : exec i s = .next t) :
    t.atmCount = if i = .atm then 3 else s.atmCount := by
  split
  · next hi => subst hi; exact next_inj.1 h ▸ rfl
  · next hi => exact (keeps_exec hi h).atm

/-- The ATM count apart, every instruction keeps what its operation does. -/
theorem keeps_exec_count {i : Instr} {s t : State} (h : exec i s = .next t) :
    Keeps s { t with atmCount := s.atmCount } := by
  by_cases hi : i = .atm
  · subst hi
    exact next_inj.1 h ▸ .of_mem rfl rfl rfl rfl rfl rfl id id
  · have k := keeps_exec hi h
    exact k.trans (.of_mem rfl k.atm.symm rfl rfl rfl rfl id id)

theorem Executed.keeps {s u : State} (h : Executed s u) : Keeps s { u with atmCount := s.atmCount } := by
  cases h with
  | trapped k => exact k.trans (.of_mem rfl k.atm.symm rfl rfl rfl rfl id id)
  | @retired v x i k run =>
    refine (k.trans (keeps_exec_count run)).trans (.of_mem ?_ k.atm.symm ?_ ?_ ?_ ?_ ?_ ?_) <;> simp

theorem retire_atmCount_le (i : Instr) (s : State) : (retire i s).atmCount ≤ s.atmCount := by
  cases i with
  | ill | atm => exact Nat.le_refl _
  | brk =>
    show (if s.dev.ocdBreaks then consumeLatches s else s).atmCount ≤ s.atmCount
    split
    · exact Nat.sub_le _ _
    · exact Nat.le_refl _
  | _ => exact Nat.sub_le _ _

theorem Executed.atmCount_le {s u : State} (h : Executed s u) (hs : s.atmCount ≤ 3) : u.atmCount ≤ 3 := by
  cases h with
  | trapped k => exact k.atm ▸ hs
  | @retired v x i k run =>
    refine Nat.le_trans (retire_atmCount_le i x) ?_
    rw [exec_atmCount run, k.atm]
    split
    · exact Nat.le_refl 3
    · exact hs

/-! ### The stack check -/

theorem push_same {z : Size} {v : BitVec (Size.bits z)} {s t : State} (h : push z v s = .next t) :
    Claims.SameMachine s t ∧ Claims.SameLatches s t := by
  obtain ⟨-, rfl⟩ := push_eq_next.1 h
  constructor <;> constructor <;> simp

theorem jumpThrough_same {v : Quad} {s t : State} (h : jumpThrough v s = .next t) :
    Claims.SameMachine s t ∧ Claims.SameLatches s t := by
  obtain ⟨-, -, rfl⟩ := jumpThrough_eq_next.1 h
  exact ⟨⟨rfl, rfl, rfl, rfl, rfl, rfl, rfl, rfl⟩, ⟨rfl, rfl⟩⟩

/-- An exception leaves the latches, the ATM count and the other agents as they were. -/
theorem takeException_same {e : SysExc} {p : Quad} {s t : State} (h : takeException e p s = .next t) :
    Claims.SameMachine s t ∧ Claims.SameLatches s t := by
  obtain ⟨s1, s2, h1, h2, h3⟩ := takeException_eq_next.1 h
  obtain ⟨⟨a1, b1, c1, d1, e1, f1, g1, i1⟩, ⟨x1, n1⟩⟩ := push_same h1
  obtain ⟨⟨a2, b2, c2, d2, e2, f2, g2, i2⟩, ⟨x2, n2⟩⟩ := push_same h2
  obtain ⟨⟨a3, b3, c3, d3, e3, f3, g3, i3⟩, ⟨x3, n3⟩⟩ := jumpThrough_same h3
  constructor <;> constructor <;> simp_all

/-- What the stack check at the end of a step leaves as it was. -/
structure Finished (s t : State) : Prop where
  keeps : Keeps s { t with spovReq := s.spovReq }
  machine : Claims.SameMachine s t
  latches : Claims.SameLatches s t
  request : t.spovReq = false

theorem finishStep_finished {s t : State} (h : finishStep s = .next t) : Finished s t := by
  rw [finishStep_eq_next] at h
  split at h
  · obtain ⟨u, hu, rfl⟩ := h
    obtain ⟨⟨a, b, c, d, e, f, g, i⟩, ⟨x, n⟩⟩ := takeException_same hu
    exact ⟨(keeps_takeException hu).trans (.of_mem rfl rfl rfl rfl rfl rfl id fun _ => by simp_all),
      ⟨a, b, c, d, e, f, g, i⟩, ⟨x, n⟩, rfl⟩
  · subst h
    exact ⟨.refl s, ⟨rfl, rfl, rfl, rfl, rfl, rfl, rfl, rfl⟩, ⟨rfl, rfl⟩, rfl⟩

/-! ### The step of the running CPU -/

theorem runInstruction_executed {s t : State} (h : runInstruction s = .next t) :
    s.pc.getLsbD 0 = false ∧ ∃ u, Executed s u ∧ Finished u t := by
  obtain ⟨w, f, u, hw, hf, hu, ht⟩ := runInstruction_eq_next.1 h
  have hk : Keeps s f.2 := (keeps_fetchWord hw).trans (keeps_fetchRest hf)
  refine ⟨(fetchWord_memoryOnly hw).1, u, ?_, finishStep_finished ht⟩
  split at hu
  · exact .trapped (hk.trans (keeps_skipOverflow hu))
  · exact executed_executeWords hk hu

/-- What a step keeps of memory and of the device. -/
structure KeepsMemory (s t : State) : Prop where
  dev : t.dev = s.dev
  wf : Memory.wf s.mem → Memory.wf t.mem
  outsideIo : (∀ c ∈ s.mem, c.1 < ioBase s.dev) → ∀ c ∈ t.mem, c.1 < ioBase s.dev
  rom : ∀ (a : Quad) (p : Nat), locate s.dev a = .readOnly p → byteAt a t = byteAt a s

theorem KeepsMemory.of_mem {s t : State} (dev : t.dev = s.dev) (mem : t.mem = s.mem) : KeepsMemory s t where
  dev := dev
  wf := by rw [mem]; exact id
  outsideIo := by rw [mem]; exact id
  rom _ _ ha := byteAt_readOnly ha dev mem

theorem KeepsMemory.trans {s t u : State} (h : KeepsMemory s t) (k : KeepsMemory t u) : KeepsMemory s u where
  dev := k.dev.trans h.dev
  wf := k.wf ∘ h.wf
  outsideIo hs := h.dev ▸ k.outsideIo (h.dev.symm ▸ h.outsideIo hs)
  rom a p ha := (k.rom a p (h.dev.symm ▸ ha)).trans (h.rom a p ha)

theorem Keeps.memory {s t : State} (h : Keeps s t) : KeepsMemory s t := ⟨h.dev, h.wf, h.outsideIo, h.rom⟩
theorem Finished.memory {s t : State} (h : Finished s t) : KeepsMemory s t := h.keeps.memory.trans (.of_mem rfl rfl)
theorem Executed.memory {s t : State} (h : Executed s t) : KeepsMemory s t := h.keeps.memory.trans (.of_mem rfl rfl)

/-- An accepted interrupt leaves an even PC, no Stack Overflow request and the ATM count, and keeps memory. -/
theorem acceptInterrupt_keeps {q : IrqRequest} {s t : State} (h : acceptInterrupt q s = .next t) :
    KeepsMemory s t ∧ t.pc.getLsbD 0 = false ∧ t.spovReq = false ∧ t.atmCount = s.atmCount := by
  obtain ⟨u, hu, ht⟩ := acceptInterrupt_eq_next.1 h
  have hf := finishStep_finished ht
  obtain ⟨v, hv, rfl⟩ := keeps_interruptEntry hu
  have heven : v.pc.getLsbD 0 = false := by
    obtain ⟨s1, s2, s3, s4, s5, s6, s7, -, -, -, -, -, -, h7, he⟩ := interruptEntry_eq_next.1 hu
    obtain ⟨-, hpc, rfl⟩ := jumpThrough_eq_next.1 h7
    exact (congrArg State.pc he).trans rfl ▸ hpc
  exact ⟨(hv.memory.trans (.of_mem (t := acceptHead v) rfl rfl)).trans hf.memory, hf.keeps.even heven, hf.request, hf.machine.atmCount.trans hv.atm⟩

theorem resetMachine_keeps {s t : State} (h : resetMachine s = .next t) :
    KeepsMemory s t ∧ t.pc.getLsbD 0 = false ∧ t.spovReq = false ∧ t.atmCount = 0 := by
  obtain ⟨u, rfl, -, hpc, rfl⟩ := resetMachine_eq_next.1 h
  exact ⟨.of_mem rfl rfl, hpc, rfl, rfl⟩

/-- A step of the running CPU accepts a request, or executes one instruction and ends with the stack check. -/
theorem step_running {s t : State} (hr : s.runMode = .running) (h : step s = .next t) :
    (∃ q, boundaryRequest s = some q ∧ acceptInterrupt q s = .next t) ∨
      (s.pc.getLsbD 0 = false ∧ ∃ u, Executed s u ∧ Finished u t) := by
  rw [step_eq_next, hr] at h
  exact h.imp_right fun h => runInstruction_executed h.2

/-- A step in a mode that does not fetch changes nothing, accepts a request or resets the CPU. -/
theorem step_parked {s t : State} (hr : s.runMode ≠ .running) (h : step s = .next t) :
    t = s ∨ (∃ q, acceptInterrupt q { s with runMode := .running, atmCount := 0 } = .next t) ∨ resetMachine s = .next t := by
  have waiting : ∀ {rule}, stepWaiting rule s = .next t → t = s ∨
      (∃ q, acceptInterrupt q { s with runMode := .running, atmCount := 0 } = .next t) ∨ resetMachine s = .next t := by
    intro rule hw
    obtain ⟨-, rfl⟩ | ⟨q, -, hq⟩ := stepWaiting_eq_next.1 hw
    · exact .inl rfl
    · cases rule
      · exact .inr (.inl ⟨q, hq⟩)
      · exact .inr (.inr hq)
      · exact .inl hq
  rw [step_eq_next] at h
  cases hm : s.runMode <;> rw [hm] at h
  case running => exact absurd hm hr
  case debugBreak => exact .inl h
  case halt | stop => exact waiting h

theorem step_keepsMemory {s t : State} (h : step s = .next t) : KeepsMemory s t := by
  by_cases hr : s.runMode = .running
  · obtain ⟨q, -, hq⟩ | ⟨-, u, hu, ht⟩ := step_running hr h
    · exact (acceptInterrupt_keeps hq).1
    · exact hu.memory.trans ht.memory
  · obtain rfl | ⟨q, hq⟩ | hz := step_parked hr h
    · exact .of_mem rfl rfl
    · have hk : KeepsMemory s { s with runMode := .running, atmCount := 0 } := .of_mem rfl rfl
      exact hk.trans (acceptInterrupt_keeps hq).1
    · exact (resetMachine_keeps hz).1

theorem step_running_even {s t : State} (hr : s.runMode = .running) (h : step s = .next t) : t.pc.getLsbD 0 = false := by
  obtain ⟨q, -, hq⟩ | ⟨hpc, u, hu, ht⟩ := step_running hr h
  · exact (acceptInterrupt_keeps hq).2.1
  · exact ht.keeps.even (hu.keeps.even hpc)

end Sys2Proof.Machine

namespace Sys2Proof.Claims

open Sys2Proof.Machine

/-- Settles O11: every operation keeps the device and the non-volatile bytes, and a step is made of them. -/
theorem stepKeepsRomAndDevice : Obligations.StepKeepsRomAndDevice := by
  unfold Obligations.StepKeepsRomAndDevice
  intro s t h
  exact ⟨(step_keepsMemory h).dev, (step_keepsMemory h).rom⟩

/-- Settles O12: the fetch takes an odd PC for a fault, and every operation keeps an even one. -/
theorem runningStepEvenPc : Obligations.RunningStepEvenPc := by
  unfold Obligations.RunningStepEvenPc
  intro s t
  exact step_running_even

/-- What a step does to the part of the invariant that is not memory. -/
theorem step_keeps_bounds {s t : State} (hs : Invariant s) (h : step s = .next t) :
    t.atmCount ≤ 3 ∧ t.spovReq = false ∧ (t.runMode ≠ .running → t.pc.getLsbD 0 = false) := by
  by_cases hr : s.runMode = .running
  · refine ⟨?_, ?_, fun _ => step_running_even hr h⟩ <;>
      obtain ⟨q, -, hq⟩ | ⟨-, u, hu, ht⟩ := step_running hr h
    · exact (acceptInterrupt_keeps hq).2.2.2 ▸ hs.atm
    · exact ht.machine.atmCount ▸ hu.atmCount_le hs.atm
    · exact (acceptInterrupt_keeps hq).2.2.1
    · exact ht.request
  · obtain rfl | ⟨q, hq⟩ | hz := step_parked hr h
    · exact ⟨hs.atm, hs.request, hs.parked⟩
    · obtain ⟨-, hpc, hreq, hatm⟩ := acceptInterrupt_keeps hq
      exact ⟨hatm ▸ Nat.zero_le 3, hreq, fun _ => hpc⟩
    · obtain ⟨-, hpc, hreq, hatm⟩ := resetMachine_keeps hz
      exact ⟨hatm ▸ Nat.zero_le 3, hreq, fun _ => hpc⟩

/-- Settles O7: memory as every operation keeps it, the rest by the kind of step. -/
theorem stepKeepsInvariant : Obligations.StepKeepsInvariant := by
  unfold Obligations.StepKeepsInvariant
  intro s t hs h
  have hm := step_keepsMemory h
  obtain ⟨hatm, hreq, hparked⟩ := step_keeps_bounds hs h
  exact ⟨hm.wf hs.memory, hm.dev ▸ hm.outsideIo hs.outsideIo, hatm, hreq, hparked⟩

/-- Settles O8: memory is empty and every counter is clear. -/
theorem resetMeetsInvariant : Obligations.ResetMeetsInvariant := by
  unfold Obligations.ResetMeetsInvariant
  exact ⟨Memory.wf_nil, by simp [State.reset], by decide, rfl, by decide⟩

/-- Settles O13: no request is accepted in a window, and no operation changes the requests or the DMA controller there. -/
theorem atomicWindow : Obligations.AtomicWindow := by
  unfold Obligations.AtomicWindow
  refine ⟨fun s t hr hatm h => ?_, fun s hatm => dmaTurn_undisturbed (.inl hatm), fun a v s hatm =>
    ⟨dmaAccess_in_window hatm, dmaAccess_in_window hatm⟩⟩
  obtain ⟨q, hq, -⟩ | ⟨-, u, hu, ht⟩ := step_running hr h
  · obtain ⟨h0, -⟩ := boundaryRequest_eq_some.1 hq
    exact absurd h0 hatm
  · obtain ⟨hp, hplan, hseen⟩ := hu.keeps.window hatm
    exact ⟨ht.machine.pending.trans hp, ht.machine.dmaPlan.trans hplan, ht.machine.dmaSeen.trans hseen⟩

end Sys2Proof.Claims

/-! The step that runs a decoded instruction: its words as the fetch reads them, and what the step leaves of the latches and of
the ATM count. -/

namespace Sys2Proof.Machine

open Sys2Proof.Claims

/-! ### The words of the instruction at the PC -/

/-- The words of the instruction at the PC, as the fetch reads them where the DMA controller does nothing. -/
def fetchedAtPc (s : State) : Fetched where
  w0 := wordAtPc s
  w1 := if 2 ≤ instrWords (wordAtPc s) then valueAt .word (s.pc + 2#32) s else 0#16
  w2 := if 3 ≤ instrWords (wordAtPc s) then valueAt .word (s.pc + 4#32) s else 0#16

theorem fetchStop_atPc {s : State} (h : Fetchable s) {k : Nat} (hk : k < 2 * instrWords (wordAtPc s)) :
    fetchStop s (s.pc + BitVec.ofNat 32 k) = none :=
  h.2.2 _ (List.mem_map.2 ⟨k, List.mem_range.2 hk, rfl⟩)

/-- Word j of the instruction at the PC. -/
theorem fetchWord_atPc {s : State} (h : Fetchable s) {j : Nat} (hj : j < instrWords (wordAtPc s)) :
    fetchWord (s.pc + BitVec.ofNat 32 (2 * j)) s = .next (valueAt .word (s.pc + BitVec.ofNat 32 (2 * j)) s, s) := by
  obtain ⟨hu, hpc, -⟩ := id h
  refine (fetchWord_eq_next hu).2 ⟨add_even hpc (two_mul_ofNat_even j), fetchStop_atPc h (by omega), ?_, rfl⟩
  rw [BitVec.add_assoc, show (BitVec.ofNat 32 (2 * j) + 1#32) = BitVec.ofNat 32 (2 * j + 1) from
    (BitVec.ofNat_add ..).symm]
  exact fetchStop_atPc h (by omega)

theorem fetchIf_atPc {s : State} (h : Fetchable s) (j : Nat) :
    fetchIf (decide (j < instrWords (wordAtPc s))) (s.pc + BitVec.ofNat 32 (2 * j)) s =
      .next (if j < instrWords (wordAtPc s) then valueAt .word (s.pc + BitVec.ofNat 32 (2 * j)) s else 0#16, s) := by
  unfold fetchIf
  by_cases hj : j < instrWords (wordAtPc s)
  · simp [hj, fetchWord_atPc h hj]
  · simp [hj]

theorem fetchWord_pc {s : State} (h : Fetchable s) : fetchWord s.pc s = .next (wordAtPc s, s) := by
  have := fetchWord_atPc h (instrWords_pos _)
  rwa [show s.pc + BitVec.ofNat 32 (2 * 0) = s.pc from BitVec.add_zero _] at this

theorem fetchRest_atPc {s : State} (h : Fetchable s) : fetchRest (wordAtPc s) s = .next (fetchedAtPc s, s) := by
  have h1 := fetchIf_atPc h 1
  have h2 := fetchIf_atPc h 2
  unfold fetchRest
  rw [show decide (2 ≤ instrWords (wordAtPc s)) = decide (1 < instrWords (wordAtPc s)) from rfl,
    show s.pc + 2#32 = s.pc + BitVec.ofNat 32 (2 * 1) from rfl, h1]
  rw [andThen_next, show decide (3 ≤ instrWords (wordAtPc s)) = decide (2 < instrWords (wordAtPc s)) from rfl]
  exact (congrArg (andThen · _) h2).trans rfl

theorem decode_instrBytes (ext : Bool) (s : State) :
    decode ext (instrBytes s) =
      .whole (decodeWords ext (fetchedAtPc s).w0 (fetchedAtPc s).w1 (fetchedAtPc s).w2) := by
  have hpos := instrWords_pos (wordAtPc s)
  have hle := instrWords_le (wordAtPc s)
  have hw0 : byteAt s.pc s ++ byteAt (s.pc + 1#32) s = wordAtPc s := rfl
  have hcases : instrWords (wordAtPc s) = 1 ∨ instrWords (wordAtPc s) = 2 ∨ instrWords (wordAtPc s) = 3 := by omega
  unfold instrBytes fetchedAtPc decode
  obtain hn | hn | hn := hcases <;>
    simp [hn, bytesFrom, List.range, List.range.loop, bytesToWords, hw0, valueAt, BitVec.add_assoc]

theorem runInstruction_fetchable {s : State} (h : Fetchable s) :
    runInstruction s =
      andThen (if pcOverflows s then skipOverflow (wordAtPc s) s else executeWords (fetchedAtPc s) s) finishStep := by
  unfold runInstruction
  rw [fetchWord_pc h, andThen_next, fetchRest_atPc h, andThen_next]

theorem step_of_no_request {s : State} (hr : s.runMode = .running) (hq : boundaryRequest s = none) :
    step s = runInstruction s := by
  unfold step stepRunning
  rw [hr, hq]

theorem andThen_assoc {α β γ : Type} (x : Out α) (f : α → Out β) (g : β → Out γ) :
    andThen (andThen x f) g = andThen x fun a => andThen (f a) g := by
  cases x <;> rfl

/-! ### The latches and the ATM count -/

/-- An illegal word clears the latches. -/
theorem illegalInstruction_latches {p : Quad} {s t : State} (h : illegalInstruction p s = .next t) :
    t.extPending = false ∧ t.noflagsPending = false := by
  cases hill : s.sysexcp.ill
  · rw [illegalInstruction_clear hill] at h
    obtain ⟨-, hext, hnf⟩ := takeException_same h
    exact ⟨hext, hnf⟩
  · rw [illegalInstruction_set hill] at h
    obtain ⟨-, hext, hnf⟩ := jumpThrough_same h
    exact ⟨hext.trans (by simp [clearLatches]), hnf.trans (by simp [clearLatches])⟩

end Sys2Proof.Machine

namespace Sys2Proof.Claims

open Sys2Proof.Machine

/-- Settles O5: the fetch reads the words whose bytes decode to the instruction. -/
theorem stepRunsDecoded : Obligations.StepRunsDecoded := by
  unfold Obligations.StepRunsDecoded
  intro s i hr hq hf hov hd
  rw [decode_instrBytes] at hd
  injection hd with hd
  rw [step_of_no_request hr hq, runInstruction_fetchable hf, hov, if_neg (by simp)]
  unfold executeWords
  rw [hd]
  unfold executeInstr
  exact andThen_assoc _ _ _

/-- What an executed instruction leaves of the latches and of the ATM count. -/
structure Retired (i : Instr) (s t : State) : Prop where
  ext : t.extPending = (decide (i = .extend) || (decide (i = .noflags) && s.extPending))
  noflags : t.noflagsPending = (decide (i = .noflags) || (decide (i = .extend) && s.noflagsPending))
  atm : t.atmCount =
    if i = .atm then 3
    else if i = .ill ∨ (i = .brk ∧ s.dev.ocdBreaks = false) then s.atmCount else s.atmCount - 1

theorem retired_illegal {i : Instr} {p : Quad} {s t : State} (hi : i = .ill ∨ (i = .brk ∧ s.dev.ocdBreaks = false))
    (h : illegalInstruction p s = .next t) : Retired i s t := by
  obtain ⟨hext, hnf⟩ := illegalInstruction_latches h
  have hatm := (keeps_illegalInstruction h).atm
  refine ⟨hext.trans ?_, hnf.trans ?_, hatm.trans ?_⟩
  all_goals obtain rfl | ⟨rfl, hd⟩ := hi <;> simp [*]

theorem breakPoint_disabled {s : State} (h : s.dev.ocdBreaks = false) :
    exec .brk s = illegalInstruction (ownAddress s) s := by
  show breakPoint s = _
  unfold breakPoint
  rw [h]
  rfl

theorem retired_brk {s t : State} (h : exec .brk s = .next t) : Retired .brk s (retire .brk t) := by
  have hd := (keeps_exec (by simp) h).dev
  have hatm := (keeps_exec (by simp) h).atm
  cases hb : s.dev.ocdBreaks
  · have hr : retire .brk t = t := by simp [retire, hd, hb]
    rw [hr]
    exact retired_illegal (.inr ⟨rfl, hb⟩) (breakPoint_disabled hb ▸ h)
  · have hr : retire .brk t = consumeLatches t := by simp [retire, hd, hb]
    rw [hr]
    exact ⟨rfl, rfl, by simp [consumeLatches, hatm, hb]⟩

/-- The prefixes, ATM and the illegal words apart, an instruction consumes the latches. -/
theorem retire_other {i : Instr} (hext : i ≠ .extend) (hnf : i ≠ .noflags) (hatm : i ≠ .atm) (hill : i ≠ .ill)
    (hbrk : i ≠ .brk) (s : State) : retire i s = consumeLatches s := by
  cases i with
  | extend => exact absurd rfl hext
  | noflags => exact absurd rfl hnf
  | atm => exact absurd rfl hatm
  | ill => exact absurd rfl hill
  | brk => exact absurd rfl hbrk
  | _ => rfl

theorem retired_exec {i : Instr} {s t : State} (h : exec i s = .next t) : Retired i s (retire i t) := by
  by_cases hext : i = .extend
  · subst hext; exact next_inj.1 h ▸ ⟨rfl, rfl, rfl⟩
  by_cases hnf : i = .noflags
  · subst hnf; exact next_inj.1 h ▸ ⟨rfl, rfl, rfl⟩
  by_cases hatm : i = .atm
  · subst hatm; exact next_inj.1 h ▸ ⟨rfl, rfl, rfl⟩
  by_cases hill : i = .ill
  · subst hill; exact retired_illegal (.inl rfl) h
  by_cases hbrk : i = .brk
  · subst hbrk; exact retired_brk h
  have hc := exec_atmCount h
  rw [retire_other hext hnf hatm hill hbrk]
  refine ⟨?_, ?_, ?_⟩ <;> simp [consumeLatches, clearLatches, *]

/-- Settles O6: the instruction and the update of the latches, and then the stack check, which leaves them. -/
theorem prefixLatches : Obligations.PrefixLatches := by
  unfold Obligations.PrefixLatches
  intro s t i hr hq hf hov hd h
  rw [stepRunsDecoded s i hr hq hf hov hd] at h
  obtain ⟨u, hu, ht⟩ := andThen_eq_next.1 h
  obtain ⟨hext, hnf, hatm⟩ := retired_exec hu
  have hfin := finishStep_finished ht
  exact ⟨hfin.latches.ext.trans hext, hfin.latches.noflags.trans hnf, hfin.machine.atmCount.trans hatm⟩

end Sys2Proof.Claims

/-! The statements that evaluate: object code of the spec, the reset values, effective addresses and CPU control. -/

namespace Sys2Proof.Claims

open Sys2Proof.Machine

/-- Settles O4: each word by evaluation of the decoder. -/
theorem decodeExamples : Obligations.DecodeExamples := by
  unfold Obligations.DecodeExamples
  refine ⟨?_, ?_, ?_, ?_, ?_, ?_, ?_⟩ <;> decide

/-- Settles O9: by evaluation of the reset state. -/
theorem resetState : Obligations.ResetState := by
  unfold Obligations.ResetState
  refine ⟨?_, rfl, rfl, ?_, ?_, ?_, ?_, rfl, rfl, rfl, rfl⟩
  · rfl
  all_goals decide

/-- Settles O55: each instruction is its shared operation. -/
theorem cpuControl : Obligations.CpuControl := by
  unfold Obligations.CpuControl
  intro s
  refine ⟨?_, ?_, rfl, rfl, rfl, rfl, rfl, rfl, rfl⟩
  · rfl
  · rfl

/-- Settles O19: an address without an offset by its definition, one with an offset as the sum. -/
theorem effectiveAddresses : Obligations.EffectiveAddresses := by
  unfold Obligations.EffectiveAddresses
  intro s r a q o13 o14 o6
  have h14 : ∀ base : Quad, baseOff base o14 = BitVec.ofInt 32 (base.toInt + o14.toInt) := fun _ => baseOff_eq_ofInt _ _
  exact ⟨rfl, rfl, baseOff_eq_ofInt _ _, rfl, rfl, rfl, h14 _, h14 _, rfl, rfl, rfl, rfl, h14 _, baseOff_eq_ofInt _ _,
    rfl, rfl, rfl, rfl, rfl, h14 _, baseOff_eq_ofInt _ _⟩

end Sys2Proof.Claims

/-! The binary operations in their 31 operand forms, and the unary ones. A form says which operand is read and where the
result goes, once for all operations; an operation says what its result and its flags are, once for all forms. -/

namespace Sys2Proof.Claims

open Sys2Proof.Machine

/-! ### Flags of a result -/

/-- Set in a state with the NOFLAGS latch of s, the flags of a result make FLAGS this, of what it was. -/
def PatchGives (s : State) (p : FlagPatch) (flags : Byte → Byte) : Prop :=
  ∀ u : State, u.noflagsPending = s.noflagsPending → (u.setFlags p).flags = flags u.flags

theorem patchGives_result (s : State) (p : FlagPatch) :
    PatchGives s p fun f => resultFlags s (p.c.getD (flagC f)) (p.z.getD (flagZ f)) (p.s.getD (flagS f))
      (p.v.getD (flagV f)) (p.b.getD (flagB f)) f := by
  intro u hu
  rw [setFlags_flags_eq_resultFlags, resultFlags, hu]
  rfl

/-- FLAGS after an addition, with Z sticky or not (R200, R202). -/
theorem patchGives_sum {n : Nat} (hn : 0 < n) (s : State) (a b : BitVec n) (cin sticky zOld blank : Bool) :
    PatchGives s (arithPatch (addFlags a b cin) sticky zOld blank)
      (sumFlags s a b (carryNat cin) (addFlags a b cin).r
        (if sticky then zOld && isZero (addFlags a b cin).r else isZero (addFlags a b cin).r) blank) := by
  intro u hu
  have hv := addFlags_v hn a b cin
  have hz : (addFlags a b cin).z = isZero (addFlags a b cin).r := (isZero_eq_beq _).symm
  have hs : (addFlags a b cin).s = isNegative (addFlags a b cin).r := (isNegative_eq_msb _).symm
  rw [patchGives_result s _ u hu]
  simp only [arithPatch, Option.getD_some, hv, hz, hs]
  rfl

/-- FLAGS after a subtraction, with Z sticky or not (R201, R202). -/
theorem patchGives_difference {n : Nat} (hn : 0 < n) (s : State) (a b : BitVec n) (bin sticky zOld blank : Bool) :
    PatchGives s (arithPatch (subFlags a b bin) sticky zOld blank)
      (differenceFlags s a b (carryNat bin) (subFlags a b bin).r
        (if sticky then zOld && isZero (subFlags a b bin).r else isZero (subFlags a b bin).r) blank) := by
  intro u hu
  rw [setFlags_arithPatch_subFlags hn, differenceFlags, differenceFlags, resultFlags, resultFlags, hu]

/-- FLAGS after a bitwise operation (R203). -/
theorem patchGives_logic {n : Nat} (s : State) (a b r : BitVec n) :
    PatchGives s (logicPatch r a b) (logicFlags s a b r) := by
  intro u hu
  rw [patchGives_result s _ u hu, logicFlags]
  simp only [isZero_eq_beq, isNegative_eq_msb]
  rfl

theorem carryNat_carryIn (s : State) : carryNat (s.extPending && flagC s.flags) = carryIn s := by
  unfold carryIn
  cases s.extPending <;> cases flagC s.flags <;> rfl

theorem stickyZero_eq {n : Nat} (s : State) (r : BitVec n) :
    (if s.extPending then flagZ s.flags && isZero r else isZero r) = stickyZero s r := by
  unfold stickyZero
  cases s.extPending <;> simp [Bool.and_comm]

theorem blank2_eq {n : Nat} (a b : BitVec n) : blank2 a b = (isZero a || isZero b) := by
  rw [isZero_eq_beq, isZero_eq_beq]
  rfl

theorem blank1_eq {n : Nat} (a : BitVec n) : blank1 a = isZero a := (isZero_eq_beq a).symm

theorem size_bits_pos (z : Size) : 0 < Size.bits z := by cases z <;> decide

/-! ### What an operation computes -/

theorem isSum_add {n : Nat} (s : State) (a b : BitVec n) :
    IsSum a b (carryIn s) (bopCompute .add s.extPending s.flags a b).1 := by
  rw [← carryNat_carryIn]
  exact addFlags_r a b _

theorem patchGives_add {n : Nat} (hn : 0 < n) (s : State) (a b : BitVec n) :
    PatchGives s (bopCompute .add s.extPending s.flags a b).2
      (sumFlags s a b (carryIn s) (bopCompute .add s.extPending s.flags a b).1
        (stickyZero s (bopCompute .add s.extPending s.flags a b).1) (isZero a || isZero b)) := by
  rw [← carryNat_carryIn, ← stickyZero_eq, ← blank2_eq]
  exact patchGives_sum hn s a b _ _ _ _

/-- SUB and CP subtract. -/
theorem isDifference_sub {n : Nat} (hn : 0 < n) (op : Bop) (hop : op = .sub ∨ op = .cp) (s : State) (a b : BitVec n) :
    IsDifference a b (carryIn s) (bopCompute op s.extPending s.flags a b).1 := by
  rw [← carryNat_carryIn]
  obtain rfl | rfl := hop <;> exact subFlags_r hn a b _

theorem patchGives_sub {n : Nat} (hn : 0 < n) (op : Bop) (hop : op = .sub ∨ op = .cp) (s : State) (a b : BitVec n) :
    PatchGives s (bopCompute op s.extPending s.flags a b).2
      (differenceFlags s a b (carryIn s) (bopCompute op s.extPending s.flags a b).1
        (stickyZero s (bopCompute op s.extPending s.flags a b).1) (isZero a || isZero b)) := by
  rw [← carryNat_carryIn, ← stickyZero_eq, ← blank2_eq]
  obtain rfl | rfl := hop <;> exact patchGives_difference hn s a b _ _ _ _

/-- The bitwise operations. -/
def Bitwise (op : Bop) : Prop := op = .and ∨ op = .or ∨ op = .xor ∨ op = .tm ∨ op = .tcm

theorem isBitwise_bop {n : Nat} {op : Bop} (hop : Bitwise op) (ext : Bool) (f : Byte) (a b : BitVec n) :
    IsBitwise op a b (bopCompute op ext f a b).1 := by
  intro i hi
  obtain rfl | rfl | rfl | rfl | rfl := hop <;> simp [bopCompute, bitOf, hi]

theorem patchGives_bitwise {n : Nat} {op : Bop} (hop : Bitwise op) (s : State) (ext : Bool) (f : Byte) (a b : BitVec n) :
    PatchGives s (bopCompute op ext f a b).2 (logicFlags s a b (bopCompute op ext f a b).1) := by
  obtain rfl | rfl | rfl | rfl | rfl := hop <;> exact patchGives_logic s a b _

/-! ### The operand forms -/

theorem eq_kindExtend {k : LoadKind} {v : BitVec (Size.bits (kindSize k))} {w : Quad} (h : Extended k v w) :
    w = kindExtend k v := by
  have h' := extended_kindExtend k v
  unfold Extended at h h'
  split at h
  · next hk => rw [if_pos hk] at h'; exact BitVec.eq_of_toInt_eq (h.trans h'.symm)
  · next hk => rw [if_neg hk] at h'; exact BitVec.eq_of_toNat_eq (h.trans h'.symm)

/-- A form with a register destination reads its source and is the operation on registers. -/
theorem exec_regForm {s : State} {f : BopForm} {rd : Reg} {b : Quad} (op : Bop) (h : RegOperands s f rd b) :
    exec (bopInstr op f) s = bopReg op rd b s.flags s := by
  rw [exec_bopInstr]
  cases h with
  | imm32 | uimm16 | reg => rfl
  | load k rd m b hu hr hv =>
    unfold bop
    simp only
    rw [busRead_of_readable hu hr, eq_kindExtend hv]
    rfl

/-- A form with a memory destination is the operation on its datum. -/
theorem exec_memForm {s : State} {f : BopForm} {z : Size} {ea : Quad} {b : BitVec (Size.bits z)} (op : Bop)
    (h : MemOperands s f z ea b) : exec (bopInstr op f) s = bopMem op z ea b s := by
  rw [exec_bopInstr]
  cases h <;> rfl

theorem after_setFlags {s : State} {p : FlagPatch} {flags : Byte} (hf : (s.setFlags p).flags = flags) :
    After [] flags s (s.setFlags p) := ⟨onlyRegs_setFlags s p, hf, setFlags_pc s p⟩

theorem setFlags_eq_withFlags (s : State) (p : FlagPatch) : s.setFlags p = { s with flags := (s.setFlags p).flags } := by
  unfold State.setFlags
  split <;> rfl

/-- An operation that writes its register destination. -/
theorem bopReg_writes {op : Bop} {rd : Reg} {b : Quad} {s : State} {flags : Byte → Byte} (hop : bopWrites op = true)
    (hf : PatchGives s (bopCompute op s.extPending s.flags (s.reg rd) b).2 flags) :
    ∃ t, bopReg op rd b s.flags s = .next t ∧ t.reg rd = (bopCompute op s.extPending s.flags (s.reg rd) b).1
      ∧ After [rd] (flags s.flags) s t := by
  refine ⟨_, bopReg_eq op rd b s.flags s, ?_, ?_⟩
  · rw [if_pos hop, setFlags_reg, reg_writeReg_same]
  · rw [if_pos hop]
    exact after_writeReg_setFlags (hf s rfl)

/-- An operation that writes nothing but flags. -/
theorem bopReg_tests {op : Bop} {rd : Reg} {b : Quad} {s : State} {flags : Byte → Byte} (hop : bopWrites op = false)
    (hf : PatchGives s (bopCompute op s.extPending s.flags (s.reg rd) b).2 flags) :
    ∃ t, bopReg op rd b s.flags s = .next t ∧ After [] (flags s.flags) s t := by
  refine ⟨_, bopReg_eq op rd b s.flags s, ?_⟩
  rw [if_neg (by simp [hop])]
  exact after_setFlags (hf s rfl)

/-- The store of a result, and then its flags (R100 (a), D14). -/
theorem updated_putValue {z : Size} {ea : Quad} {r : BitVec (Size.bits z)} {p : FlagPatch} {flags : Byte → Byte} {s : State}
    (hm : Memory.wf s.mem) (hw : Writable s.dev z ea) (hf : PatchGives s p flags) :
    Updated z ea r flags s ((putValue z ea r s).setFlags p) := by
  refine ⟨_, stored_putValue r hm hw, ?_⟩
  rw [← hf _ (putValue_noflagsPending z ea r s)]
  exact setFlags_eq_withFlags _ p

theorem bopMem_writes {op : Bop} {z : Size} {ea : Quad} {b : BitVec (Size.bits z)} {s : State} {flags : Byte → Byte}
    (hop : bopWrites op = true) (hu : Undisturbed s) (hm : Memory.wf s.mem) (hw : Writable s.dev z ea)
    (hf : PatchGives s (bopCompute op s.extPending s.flags (valueAt z ea s) b).2 flags) :
    ∃ t, bopMem op z ea b s = .next t ∧
      Updated z ea (bopCompute op s.extPending s.flags (valueAt z ea s) b).1 flags s t := by
  refine ⟨_, (bopMem_eq_next hu).2 ⟨hw.readable, ?_⟩, updated_putValue hm hw hf⟩
  rw [if_pos hop]
  exact ⟨hw, rfl⟩

theorem bopMem_tests {op : Bop} {z : Size} {ea : Quad} {b : BitVec (Size.bits z)} {s : State} {flags : Byte → Byte}
    (hop : bopWrites op = false) (hu : Undisturbed s) (hr : Readable s.dev z ea)
    (hf : PatchGives s (bopCompute op s.extPending s.flags (valueAt z ea s) b).2 flags) :
    ∃ t, bopMem op z ea b s = .next t ∧ After [] (flags s.flags) s t := by
  refine ⟨_, (bopMem_eq_next hu).2 ⟨hr, ?_⟩, after_setFlags (hf s rfl)⟩
  rw [if_neg (by simp [hop])]

/-! ### Addition and subtraction -/

theorem quad_pos : 0 < 32 := by decide

/-- The short immediate is 0 when its 8 bits are. -/
theorem isZero_signExtend (imm : BitVec 8) : isZero (imm.signExtend 32) = isZero imm := by
  have hz : ∀ x : BitVec 8, isZero (x.signExtend 32) = isZero x := by decide
  exact hz imm

theorem add_regForm {f : BopForm} {rd : Reg} {b : Quad} {s : State} (h : RegOperands s f rd b) :
    ∃ t, exec (bopInstr .add f) s = .next t ∧ IsSum (s.reg rd) b (carryIn s) (t.reg rd)
      ∧ After [rd] (sumFlags s (s.reg rd) b (carryIn s) (t.reg rd) (stickyZero s (t.reg rd))
          (isZero (s.reg rd) || isZero b) s.flags) s t := by
  obtain ⟨t, ht, hr, ha⟩ := bopReg_writes rfl (patchGives_add quad_pos s (s.reg rd) b)
  exact ⟨t, (exec_regForm .add h).trans ht, hr ▸ isSum_add s (s.reg rd) b, hr ▸ ha⟩

/-- Settles O20: the operation in its forms, the one of three registers by itself. -/
theorem addition : Obligations.Addition := by
  unfold Obligations.Addition
  refine ⟨fun f rd b s => add_regForm, fun f z ea b s h hu hm hw => ?_, fun rd rs1 rs2 s => ?_, fun rd imm s => ?_⟩
  · obtain ⟨t, ht, hup⟩ := bopMem_writes rfl hu hm hw (patchGives_add (size_bits_pos z) s (valueAt z ea s) b)
    exact ⟨_, t, (exec_memForm .add h).trans ht, isSum_add s _ b, hup⟩
  · refine ⟨_, rfl, ?_⟩
    rw [setFlags_reg, reg_writeReg_same]
    exact ⟨isSum_add s _ _, after_writeReg_setFlags (patchGives_add quad_pos s (s.reg rs1) (s.reg rs2) s rfl)⟩
  · rw [← isZero_signExtend]
    exact add_regForm (.imm32 rd (imm.signExtend 32))

/-- Settles O21: the operation with a register destination, and with a memory one. -/
theorem subtraction : Obligations.Subtraction := by
  unfold Obligations.Subtraction
  refine ⟨fun f rd b s h => ?_, fun f z ea b s h hu hm hw => ?_⟩
  · obtain ⟨t, ht, hr, ha⟩ := bopReg_writes rfl (patchGives_sub quad_pos .sub (.inl rfl) s (s.reg rd) b)
    exact ⟨t, (exec_regForm .sub h).trans ht, hr ▸ isDifference_sub quad_pos .sub (.inl rfl) s (s.reg rd) b, hr ▸ ha⟩
  · obtain ⟨t, ht, hup⟩ := bopMem_writes rfl hu hm hw
      (patchGives_sub (size_bits_pos z) .sub (.inl rfl) s (valueAt z ea s) b)
    exact ⟨_, t, (exec_memForm .sub h).trans ht, isDifference_sub (size_bits_pos z) .sub (.inl rfl) s _ b, hup⟩

theorem cp_regForm {f : BopForm} {rd : Reg} {b : Quad} {s : State} (h : RegOperands s f rd b) :
    ∃ r t, exec (bopInstr .cp f) s = .next t ∧ IsDifference (s.reg rd) b (carryIn s) r
      ∧ After [] (differenceFlags s (s.reg rd) b (carryIn s) r (stickyZero s r) (isZero (s.reg rd) || isZero b) s.flags)
          s t := by
  obtain ⟨t, ht, ha⟩ := bopReg_tests rfl (patchGives_sub quad_pos .cp (.inr rfl) s (s.reg rd) b)
  exact ⟨_, t, (exec_regForm .cp h).trans ht, isDifference_sub quad_pos .cp (.inr rfl) s _ b, ha⟩

theorem cpSimm8_result (rd : Reg) (imm : BitVec 8) (s : State) :
    ∃ r t, exec (.cpSimm8 rd imm) s = .next t ∧ IsDifference (s.reg rd) (BitVec.ofInt 32 imm.toInt) (carryIn s) r
      ∧ After [] (differenceFlags s (s.reg rd) (BitVec.ofInt 32 imm.toInt) (carryIn s) r (stickyZero s r)
          (isZero (s.reg rd) || isZero imm) s.flags) s t := by
  rw [← isZero_signExtend]
  exact cp_regForm (.imm32 rd (imm.signExtend 32))

/-- Settles O22: a subtraction whose result is not written. -/
theorem comparison : Obligations.Comparison := by
  unfold Obligations.Comparison
  refine ⟨fun f rd b s => cp_regForm, fun f z ea b s h hu hr => ?_, cpSimm8_result⟩
  obtain ⟨t, ht, ha⟩ := bopMem_tests rfl hu hr (patchGives_sub (size_bits_pos z) .cp (.inr rfl) s (valueAt z ea s) b)
  exact ⟨_, t, (exec_memForm .cp h).trans ht, isDifference_sub (size_bits_pos z) .cp (.inr rfl) s _ b, ha⟩

/-! ### Bitwise operations -/

/-- Settles O32: the three operations that write their result bit by bit. -/
theorem bitwiseLogic : Obligations.BitwiseLogic := by
  unfold Obligations.BitwiseLogic
  intro op hop
  have hbit : Bitwise op := hop.imp_right fun h => h.imp_right .inl
  have hwrites : bopWrites op = true := by obtain rfl | rfl | rfl := hop <;> rfl
  refine ⟨fun f rd b s h => ?_, fun f z ea b s h hu hm hw => ?_⟩
  · obtain ⟨t, ht, hr, ha⟩ := bopReg_writes hwrites (patchGives_bitwise hbit s s.extPending s.flags (s.reg rd) b)
    exact ⟨t, (exec_regForm op h).trans ht, hr ▸ isBitwise_bop hbit _ _ _ b, hr ▸ ha⟩
  · obtain ⟨t, ht, hup⟩ := bopMem_writes hwrites hu hm hw
      (patchGives_bitwise hbit s s.extPending s.flags (valueAt z ea s) b)
    exact ⟨_, t, (exec_memForm op h).trans ht, isBitwise_bop hbit _ _ _ b, hup⟩

/-- Settles O33: the two bitwise operations that write no result. -/
theorem bitTests : Obligations.BitTests := by
  unfold Obligations.BitTests
  intro op hop
  have hbit : Bitwise op := .inr (.inr (.inr hop))
  have hwrites : bopWrites op = false := by obtain rfl | rfl := hop <;> rfl
  refine ⟨fun f rd b s h => ?_, fun f z ea b s h hu hr => ?_⟩
  · obtain ⟨t, ht, ha⟩ := bopReg_tests hwrites (patchGives_bitwise hbit s s.extPending s.flags (s.reg rd) b)
    exact ⟨_, t, (exec_regForm op h).trans ht, isBitwise_bop hbit _ _ _ b, ha⟩
  · obtain ⟨t, ht, ha⟩ := bopMem_tests hwrites hu hr
      (patchGives_bitwise hbit s s.extPending s.flags (valueAt z ea s) b)
    exact ⟨_, t, (exec_memForm op h).trans ht, isBitwise_bop hbit _ _ _ b, ha⟩

end Sys2Proof.Claims

/-! The unary operations and the condition codes, the wide products, and the shifts. -/

namespace Sys2Proof.Claims

open Sys2Proof.Machine

/-! ### Compare with zero -/

theorem isDifference_cpz {n : Nat} (hn : 0 < n) (s : State) (a : BitVec n) :
    IsDifference a 0#n (carryIn s) (uopCompute .cpz s.extPending s.flags a).1 := by
  rw [← carryNat_carryIn]
  exact subFlags_r hn a 0#n _

theorem patchGives_cpz {n : Nat} (hn : 0 < n) (s : State) (a : BitVec n) :
    PatchGives s (uopCompute .cpz s.extPending s.flags a).2
      (differenceFlags s a 0#n (carryIn s) (uopCompute .cpz s.extPending s.flags a).1
        (stickyZero s (uopCompute .cpz s.extPending s.flags a).1) true) := by
  rw [← carryNat_carryIn, ← stickyZero_eq]
  exact patchGives_difference hn s a 0#n _ _ _ _

theorem exec_cpz {z : Size} {m : UopMem} {s : State} (hu : Undisturbed s) (hr : Readable s.dev z (eaUop m s)) :
    exec (uopInstr .cpz z m) s
      = .next (s.setFlags (uopCompute .cpz s.extPending s.flags (valueAt z (eaUop m s) s)).2) := by
  rw [exec_uopInstr]
  show andThen (busRead z (eaUop m s) s) _ = _
  rw [busRead_of_readable hu hr]
  rfl

theorem cpczReg_result (rd : Reg) (s : State) (hext : s.extPending = true) :
    ∃ r t, exec (.cpczReg rd) s = .next t ∧ IsDifference (s.reg rd) 0#32 (carryIn s) r
      ∧ After [] (differenceFlags s (s.reg rd) 0#32 (carryIn s) r (stickyZero s r) true s.flags) s t := by
  have hexec : exec (.cpczReg rd) s = .next (s.setFlags (uopCompute .cpz s.extPending s.flags (s.reg rd)).2) := by
    rw [hext]
    rfl
  exact ⟨_, _, hexec, isDifference_cpz quad_pos s _, after_setFlags (patchGives_cpz quad_pos s (s.reg rd) s rfl)⟩

/-- Settles O24: CPZ Rd is CP with a zero immediate, which is blank. -/
theorem compareWithZero : Obligations.CompareWithZero := by
  unfold Obligations.CompareWithZero
  refine ⟨fun z m s hu hr => ?_, fun i rd s hi => ?_⟩
  · exact ⟨_, _, exec_cpz hu hr, isDifference_cpz (size_bits_pos z) s _,
      after_setFlags (patchGives_cpz (size_bits_pos z) s (valueAt z (eaUop m s) s) s rfl)⟩
  · obtain ⟨rfl, -⟩ | ⟨rfl, hext⟩ := hi
    · obtain ⟨r, t, ht, hr, ha⟩ := cpSimm8_result rd 0#8 s
      rw [show isZero (0#8) = true from rfl, Bool.or_true] at ha
      exact ⟨r, t, ht, hr, ha⟩
    · exact cpczReg_result rd s hext

/-! ### Condition codes -/

theorem cond_flagsByte (cc : CC) (c z n v b f1 cirqe irqe : Bool) :
    (conditionTable c z n v b)[cc.toNat]? = some (Machine.cond cc (flagsByte c z n v b f1 cirqe irqe)) := by
  have hlt := cc.isLt
  simp only [Machine.cond, flagC_flagsByte, flagZ_flagsByte, flagS_flagsByte, flagV_flagsByte, flagB_flagsByte, conditionTable]
  generalize cc.toNat = k at hlt
  match k with
  | 0 | 1 | 2 | 3 | 4 | 5 | 6 | 7 | 8 | 9 | 10 | 11 | 12 | 13 | 14 | 15 => simp
  | k + 16 => omega

/-- What the flags of a - b say of the two values: Z equality, C the unsigned order, S and V together the signed one. -/
theorem difference_orders {a b r : Quad} (h : IsDifference a b 0 r) :
    isZero r = decide (a.toNat = b.toNat) ∧
      (isNegative r != outOfRange 32 (a.toInt - b.toInt - (0 : Nat))) = decide (a.toInt < b.toInt) := by
  have ha := a.isLt
  have hb := b.isLt
  have hr := r.isLt
  unfold IsDifference at h
  constructor
  · rw [isZero, decide_eq_decide]
    omega
  · rw [Bool.eq_iff_iff]
    simp only [isNegative, outOfRange, BitVec.toInt_eq_toNat_cond, bne_iff_ne, ne_eq, decide_eq_decide, decide_eq_true_eq]
    repeat' split
    all_goals omega

/-- Settles O23: the table is the definition flag by flag, and the flags of CP are those of the difference. -/
theorem conditionsAfterCompare : Obligations.ConditionsAfterCompare := by
  unfold Obligations.ConditionsAfterCompare
  refine ⟨cond_flagsByte, fun rd rs s hext hnf => ?_⟩
  obtain ⟨r, t, ht, hr, ha⟩ := cp_regForm (.reg rd rs : RegOperands s _ _ _)
  have hcin : carryIn s = 0 := by simp [carryIn, hext]
  rw [hcin] at hr
  obtain ⟨hz, hlt⟩ := difference_orders hr
  have hflags := ha.flags
  rw [hcin, differenceFlags, resultFlags, hnf, if_neg (by simp)] at hflags
  have hz : flagZ t.flags = decide ((s.reg rd).toNat = (s.reg rs).toNat) := by
    rw [hflags, flagZ_flagsByte, stickyZero, hext, hz]; simp
  have hc : flagC t.flags = decide ((s.reg rd).toNat < (s.reg rs).toNat) := by
    rw [hflags, flagC_flagsByte]; simp
  have hlt : (flagS t.flags != flagV t.flags) = decide ((s.reg rd).toInt < (s.reg rs).toInt) := by
    rw [hflags, flagS_flagsByte, flagV_flagsByte, hlt]
  have hint : (s.reg rd).toNat = (s.reg rs).toNat ↔ (s.reg rd).toInt = (s.reg rs).toInt := by
    rw [BitVec.toNat_inj, BitVec.toInt_inj]
  refine ⟨t, ht, hz, ?_, hc, ?_, ?_, ?_, hlt, ?_, ?_, ?_⟩
  all_goals
    simp only [Machine.cond, BitVec.reduceToNat, hz, hc, hlt, hint]
    grind

/-! ### Increment and decrement -/

theorem exec_inc (z : Size) (m : UopMem) (s : State) :
    exec (uopInstr .inc z m) s =
      andThen (busRead z (eaUop m s) s) fun a =>
        andThen (busWrite z (eaUop m s) (addFlags a.1 1 false).r a.2) fun t =>
          .next (t.setFlags (arithPatch (addFlags a.1 1 false) false false (blank1 a.1))) := by
  rw [exec_uopInstr]
  rfl

theorem exec_dec (z : Size) (m : UopMem) (s : State) :
    exec (uopInstr .dec z m) s =
      andThen (busRead z (eaUop m s) s) fun a =>
        andThen (busWrite z (eaUop m s) (subFlags a.1 1 false).r a.2) fun t =>
          .next (t.setFlags (arithPatch (subFlags a.1 1 false) false false (blank1 a.1))) := by
  rw [exec_uopInstr]
  rfl

/-- Settles O25: a read, and a write of the sum or the difference; undisturbed they are of the state as it is. -/
theorem incrementDecrement : Obligations.IncrementDecrement := by
  unfold Obligations.IncrementDecrement
  refine ⟨fun z m s hu hm hw => ?_, fun z m s hu hm hw => ?_, fun z m s t h => ?_, fun z m s t h => ?_⟩
  · rw [exec_inc, busRead_of_readable hu hw.readable, andThen_next, busWrite_of_writable hu hw, ← blank1_eq]
    exact ⟨_, _, rfl, addFlags_r _ _ false,
      updated_putValue hm hw (patchGives_sum (size_bits_pos z) s (valueAt z (eaUop m s) s) 1 false false false _)⟩
  · rw [exec_dec, busRead_of_readable hu hw.readable, andThen_next, busWrite_of_writable hu hw, ← blank1_eq]
    exact ⟨_, _, rfl, subFlags_r (size_bits_pos z) _ _ false,
      updated_putValue hm hw (patchGives_difference (size_bits_pos z) s (valueAt z (eaUop m s) s) 1 false false false _)⟩
  · rw [exec_inc] at h
    obtain ⟨⟨v, u⟩, hr, h⟩ := andThen_eq_next.1 h
    obtain ⟨w, hw, rfl⟩ := andThen_next_eq_next.1 h
    exact ⟨v, _, u, w, hr, addFlags_r _ _ false, hw, setFlags_eq_withFlags w _⟩
  · rw [exec_dec] at h
    obtain ⟨⟨v, u⟩, hr, h⟩ := andThen_eq_next.1 h
    obtain ⟨w, hw, rfl⟩ := andThen_next_eq_next.1 h
    exact ⟨v, _, u, w, hr, subFlags_r (size_bits_pos z) _ _ false, hw, setFlags_eq_withFlags w _⟩

/-! ### Two registers written -/

theorem after_writeReg_writeReg_setFlags {s : State} {r q : Reg} {v w : Quad} {p : FlagPatch} {flags : Byte}
    (hf : (s.setFlags p).flags = flags) : After [r, q] flags s (((s.writeReg r v).writeReg q w).setFlags p) where
  only := (onlyRegs_writeReg s r v).trans
    ((onlyRegs_writeReg (s.writeReg r v) q w).trans (onlyRegs_setFlags ((s.writeReg r v).writeReg q w) p))
  flags := by rw [← hf, setFlags_flags, setFlags_flags]; rfl
  pc := setFlags_pc _ p

/-- The first register written keeps its value where the second is another one. -/
theorem reg_writeReg_writeReg {s : State} {r q : Reg} (h : r ≠ q) (v w : Quad) (p : FlagPatch) :
    (((s.writeReg r v).writeReg q w).setFlags p).reg r = v ∧ (((s.writeReg r v).writeReg q w).setFlags p).reg q = w := by
  rw [setFlags_reg, setFlags_reg, reg_writeReg_other _ w h, reg_writeReg_same, reg_writeReg_same]
  exact ⟨rfl, rfl⟩

/-! ### Wide products -/

theorem product64_unsigned (a b : Quad) : (product64 false a b).toNat = a.toNat * b.toNat := by
  have hlt : a.toNat * b.toNat < 2 ^ 32 * 2 ^ 32 := Nat.mul_lt_mul'' a.isLt b.isLt
  simp only [product64, Bool.false_eq_true, if_false, BitVec.toNat_mul, BitVec.toNat_setWidth]
  rw [Nat.mod_eq_of_lt (Nat.lt_trans a.isLt (by decide)), Nat.mod_eq_of_lt (Nat.lt_trans b.isLt (by decide))]
  exact Nat.mod_eq_of_lt hlt

theorem natAbs_toInt_le (a : Quad) : a.toInt.natAbs ≤ 2 ^ 31 := by
  have hlow := BitVec.le_toInt a
  have hhigh := BitVec.toInt_lt (x := a)
  omega

theorem product64_signed (a b : Quad) : (product64 true a b).toInt = a.toInt * b.toInt := by
  have habs : (a.toInt * b.toInt).natAbs ≤ 2 ^ 31 * 2 ^ 31 := by
    rw [Int.natAbs_mul]
    exact Nat.mul_le_mul (natAbs_toInt_le a) (natAbs_toInt_le b)
  simp only [product64, if_true, BitVec.toInt_mul]
  rw [BitVec.toInt_signExtend_of_le (by decide), BitVec.toInt_signExtend_of_le (by decide)]
  exact Int.bmod_eq_of_le (by omega) (by omega)

theorem product64_halves (p : BitVec 64) : p.extractLsb' 32 32 ++ p.extractLsb' 0 32 = p := by
  rw [BitVec.extractLsb'_append_extractLsb'_eq_extractLsb' (by decide), BitVec.extractLsb'_eq_self]

theorem multiplyWide_result {rd rs : Reg} (h : rd ≠ rs) (signed : Bool) (s : State) :
    ∃ t, multiplyWide signed rd rs s = .next t ∧ t.reg rs ++ t.reg rd = product64 signed (s.reg rd) (s.reg rs)
      ∧ After [rd, rs] (productFlags s (t.reg rs ++ t.reg rd) false) s t := by
  refine ⟨_, if_neg h, ?_⟩
  obtain ⟨hd, hs⟩ := reg_writeReg_writeReg (s := s) h ((product64 signed (s.reg rd) (s.reg rs)).extractLsb' 0 32)
    ((product64 signed (s.reg rd) (s.reg rs)).extractLsb' 32 32)
    (productPatch (product64 signed (s.reg rd) (s.reg rs)) false)
  rw [hd, hs, product64_halves]
  exact ⟨rfl, after_writeReg_writeReg_setFlags (setFlags_productPatch s _ false)⟩

/-- Settles O28: the two halves of the product are the product, and one register for both is refused. -/
theorem wideMultiplication : Obligations.WideMultiplication := by
  unfold Obligations.WideMultiplication
  refine fun rd rs s => ⟨fun h => ⟨?_, ?_⟩, fun h => ⟨if_pos h, if_pos h⟩⟩
  · obtain ⟨t, ht, hp, ha⟩ := multiplyWide_result h false s
    exact ⟨t, ht, hp ▸ product64_unsigned _ _, ha⟩
  · obtain ⟨t, ht, hp, ha⟩ := multiplyWide_result h true s
    exact ⟨t, ht, hp ▸ product64_signed _ _, ha⟩

/-! ### Shifts -/

theorem setFlags_shiftPatch (s : State) (r : Quad) (c : Bool) :
    (s.setFlags (shiftPatch r c)).flags = shiftFlags s r c := by
  rw [setFlags_flags_eq_resultFlags, shiftFlags, isZero_eq_beq, isNegative_eq_msb]
  rfl

/-- Bit i of a rotated value is the bit n places below, around the end (R292). -/
theorem rotate_getLsbD {a : Quad} {n i : Nat} (hn : n < 32) (hi : i < 32) :
    (if n = 0 then a else a <<< n ||| a >>> (32 - n)).getLsbD i = a.getLsbD ((i + 32 - n) % 32) := by
  split
  · next h0 =>
    subst h0
    congr 1
    omega
  · rw [BitVec.getLsbD_or, BitVec.getLsbD_shiftLeft, BitVec.getLsbD_ushiftRight]
    by_cases hin : i < n
    · rw [show (i + 32 - n) % 32 = 32 - n + i by omega]
      simp [hin]
    · rw [show (i + 32 - n) % 32 = i - n by omega, BitVec.getLsbD_of_ge a (32 - n + i) (by omega)]
      simp [hin, hi]

/-- The shifts and the rotate of the model are those of the spec (R292 to R295). -/
theorem isShift_shiftCompute (op : ShiftOp) (a : Quad) {n : Nat} (hn : n < 32) :
    IsShift op a n (shiftCompute op a n).1 (shiftCompute op a n).2 := by
  cases op with
  | sra => exact ⟨by simp [shiftCompute, Int.shiftRight_eq_div_pow], rfl⟩
  | srl => exact ⟨by simp [shiftCompute, Nat.shiftRight_eq_div_pow], rfl⟩
  | sll => exact ⟨by simp [shiftCompute, Nat.shiftLeft_eq], rfl⟩
  | rl =>
    refine ⟨fun i hi => rotate_getLsbD hn hi, ?_⟩
    by_cases h0 : n = 0 <;> simp [shiftCompute, h0]

/-- The bits shifted out, none at count 0 (R296 to R299, D5). -/
theorem isShiftedOut_shiftOut {op : ShiftOp} (hop : op ≠ .rl) (a : Quad) {n : Nat} (hn : n < 32) :
    IsShiftedOut op a n (shiftOut op a n) := by
  have ha := a.isLt
  unfold shiftOut
  split
  · next h0 =>
    subst h0
    cases op with
    | rl => exact absurd rfl hop
    | sll => exact (Nat.div_eq_of_lt ha).symm
    | sra | srl => exact (Nat.mul_mod_left _ _).symm
  · cases op with
    | rl => exact absurd rfl hop
    | sll => simp [IsShiftedOut, Nat.shiftRight_eq_div_pow]
    | sra | srl => simp [IsShiftedOut, Nat.shiftLeft_eq]

theorem shiftBy_result (op : ShiftOp) (rd : Reg) {n : Nat} (hn : n < 32) (s : State) :
    IsShift op (s.reg rd) n ((shiftBy op rd n s).reg rd) (shiftCompute op (s.reg rd) n).2
      ∧ After [rd] (shiftFlags s ((shiftBy op rd n s).reg rd) (shiftCompute op (s.reg rd) n).2) s (shiftBy op rd n s) := by
  have hreg : (shiftBy op rd n s).reg rd = (shiftCompute op (s.reg rd) n).1 := by
    simp only [shiftBy, setFlags_reg, reg_writeReg_same]
  rw [hreg]
  exact ⟨isShift_shiftCompute op _ hn, after_writeReg_setFlags (setFlags_shiftPatch s _ _)⟩

theorem shiftCount_lt (s : State) (rs : Reg) : shiftCount s rs < 32 := Nat.mod_lt _ (by decide)

/-- Settles O34: both counts are below 32. -/
theorem shifts : Obligations.Shifts := by
  unfold Obligations.Shifts
  refine fun op rd s => ⟨fun imm => ?_, fun rs hext => ?_⟩
  · exact ⟨_, _, exec_shiftImmInstr op rd imm s, shiftBy_result op rd imm.isLt s⟩
  · refine ⟨_, _, (exec_shiftRegInstr op rd rs s).trans ?_, shiftBy_result op rd (shiftCount_lt s rs) s⟩
    unfold shiftReg
    rw [hext]
    rfl

/-- Settles O35: the result goes to Rd and the bits shifted out to Rs, which is another register. -/
theorem extendedShifts : Obligations.ExtendedShifts := by
  unfold Obligations.ExtendedShifts
  intro op rd rs s hop hext
  rw [exec_shiftRegInstr]
  unfold shiftReg
  rw [if_pos hext]
  refine ⟨fun h => ?_, fun h => if_pos h⟩
  rw [if_neg h]
  refine ⟨_, (shiftCompute op (s.reg rd) (shiftCount s rs)).2, rfl, ?_⟩
  obtain ⟨hd, hs⟩ := reg_writeReg_writeReg (s := s) h (shiftCompute op (s.reg rd) (shiftCount s rs)).1
    (shiftOut op (s.reg rd) (shiftCount s rs)) (shiftPatch (shiftCompute op (s.reg rd) (shiftCount s rs)).1
      (shiftCompute op (s.reg rd) (shiftCount s rs)).2)
  rw [hd, hs]
  exact ⟨isShift_shiftCompute op _ (shiftCount_lt s rs), isShiftedOut_shiftOut hop _ (shiftCount_lt s rs),
    after_writeReg_writeReg_setFlags (setFlags_shiftPatch s _ _)⟩

end Sys2Proof.Claims

/-! Reads and writes byte by byte: the big-endian datum, what stands where no memory is, and the control registers. -/

namespace Sys2Proof.Machine

open Sys2Proof.Claims

/-! ### The bytes of a datum -/

theorem extract_append_word (b0 b1 : Byte) :
    (b0 ++ b1).extractLsb' 8 8 = b0 ∧ (b0 ++ b1).extractLsb' 0 8 = b1 := by
  constructor <;> apply BitVec.eq_of_getLsbD_eq <;> intro i hi
  all_goals
    simp only [BitVec.getLsbD_extractLsb', BitVec.getLsbD_append, hi, decide_true, Bool.true_and]
    grind

theorem extract_append_quad (b0 b1 b2 b3 : Byte) :
    (b0 ++ b1 ++ b2 ++ b3).extractLsb' 24 8 = b0 ∧ (b0 ++ b1 ++ b2 ++ b3).extractLsb' 16 8 = b1
      ∧ (b0 ++ b1 ++ b2 ++ b3).extractLsb' 8 8 = b2 ∧ (b0 ++ b1 ++ b2 ++ b3).extractLsb' 0 8 = b3 := by
  refine ⟨?_, ?_, ?_, ?_⟩ <;> apply BitVec.eq_of_getLsbD_eq <;> intro i hi
  all_goals
    simp only [BitVec.getLsbD_extractLsb', BitVec.getLsbD_append, hi, decide_true, Bool.true_and]
    grind

theorem beByte_append_word (b0 b1 : Byte) :
    beByte .word (b0 ++ b1) 0 = b0 ∧ beByte .word (b0 ++ b1) 1 = b1 := extract_append_word b0 b1

theorem beByte_append_quad (b0 b1 b2 b3 : Byte) :
    beByte .quad (b0 ++ b1 ++ b2 ++ b3) 0 = b0 ∧ beByte .quad (b0 ++ b1 ++ b2 ++ b3) 1 = b1
      ∧ beByte .quad (b0 ++ b1 ++ b2 ++ b3) 2 = b2 ∧ beByte .quad (b0 ++ b1 ++ b2 ++ b3) 3 = b3 :=
  extract_append_quad b0 b1 b2 b3

theorem beByte_byte (b : Byte) : beByte .byte b 0 = b := byte_whole b

theorem beByte_valueAt {z : Size} (a : Quad) (s : State) {k : Nat} (hk : k < Size.bytes z) :
    beByte z (valueAt z a s) k = byteAt (a + BitVec.ofNat 32 k) s := by
  have h0 : a + BitVec.ofNat 32 0 = a := BitVec.add_zero a
  cases z
  · obtain rfl : k = 0 := Nat.lt_one_iff.1 hk
    rw [h0]
    exact beByte_byte _
  · obtain ⟨hb0, hb1⟩ := beByte_append_word (byteAt a s) (byteAt (a + 1#32) s)
    have hk : k = 0 ∨ k = 1 := by simp only [Size.bytes] at hk; omega
    obtain rfl | rfl := hk
    · rw [h0]; exact hb0
    · exact hb1
  · obtain ⟨hb0, hb1, hb2, hb3⟩ :=
      beByte_append_quad (byteAt a s) (byteAt (a + 1#32) s) (byteAt (a + 2#32) s) (byteAt (a + 3#32) s)
    have hk : k = 0 ∨ k = 1 ∨ k = 2 ∨ k = 3 := by simp only [Size.bytes] at hk; omega
    obtain rfl | rfl | rfl | rfl := hk
    · rw [h0]; exact hb0
    · exact hb1
    · exact hb2
    · exact hb3

end Sys2Proof.Machine

namespace Sys2Proof.Claims

open Sys2Proof.Machine

/-! ### Reads -/

theorem busRead_eq_busGet {z : Size} {a : Quad} {s : State} (h : Readable s.dev z a) : busRead z a s = busGet z a s := by
  unfold busRead
  rw [List.findSome?_eq_none_iff.2 h]
  rfl

theorem afterTurns_succ {n : Nat} {s t : State} :
    afterTurns (n + 1) s = .next t ↔ ∃ u, dmaTurn s = .next u ∧ afterTurns n u = .next t := andThen_eq_next

theorem afterTurns_one {s t : State} : afterTurns 1 s = .next t ↔ dmaTurn s = .next t := by
  rw [afterTurns_succ]
  constructor
  · rintro ⟨u, hu, hn⟩
    exact hu.trans hn
  · exact fun h => ⟨t, h, rfl⟩

theorem busByte_of_turn {a : Quad} {s t : State} (h : dmaTurn s = .next t) : busByte a s = .next (byteAt a t, t) := by
  unfold busByte
  rw [h]
  rfl

/-- Each byte is read as it stands after the turns before it. -/
theorem busRead_byteByByte {z : Size} {a : Quad} {s t : State} (hr : Readable s.dev z a)
    (h : afterTurns (Size.bytes z) s = .next t) :
    ∃ v, busRead z a s = .next (v, t) ∧ ∀ k < Size.bytes z,
      ∃ u, afterTurns (k + 1) s = .next u ∧ beByte z v k = byteAt (a + BitVec.ofNat 32 k) u := by
  have h0 : a + BitVec.ofNat 32 0 = a := BitVec.add_zero a
  rw [busRead_eq_busGet hr]
  cases z
  · refine ⟨_, busByte_of_turn (afterTurns_one.1 h), fun k hk => ?_⟩
    obtain rfl : k = 0 := Nat.lt_one_iff.1 hk
    rw [h0]
    exact ⟨_, h, beByte_byte _⟩
  · obtain ⟨u0, hu0, hrest⟩ := afterTurns_succ.1 h
    have hu1 := afterTurns_one.1 hrest
    obtain ⟨hb0, hb1⟩ := beByte_append_word (byteAt a u0) (byteAt (a + 1#32) t)
    refine ⟨_, by simp only [busGet, busByte_of_turn hu0, busByte_of_turn hu1, andThen_next]; rfl, fun k hk => ?_⟩
    have hk : k = 0 ∨ k = 1 := by simp only [Size.bytes] at hk; omega
    obtain rfl | rfl := hk
    · rw [h0]
      exact ⟨u0, afterTurns_one.2 hu0, hb0⟩
    · exact ⟨_, h, hb1⟩
  · obtain ⟨u0, hu0, h1⟩ := afterTurns_succ.1 h
    obtain ⟨u1, hu1, h2⟩ := afterTurns_succ.1 h1
    obtain ⟨u2, hu2, h3⟩ := afterTurns_succ.1 h2
    have hu3 := afterTurns_one.1 h3
    obtain ⟨hb0, hb1, hb2, hb3⟩ :=
      beByte_append_quad (byteAt a u0) (byteAt (a + 1#32) u1) (byteAt (a + 2#32) u2) (byteAt (a + 3#32) t)
    refine ⟨_, by simp only [busGet, busByte_of_turn hu0, busByte_of_turn hu1, busByte_of_turn hu2, busByte_of_turn hu3,
      andThen_next]; rfl, fun k hk => ?_⟩
    have hk : k = 0 ∨ k = 1 ∨ k = 2 ∨ k = 3 := by simp only [Size.bytes] at hk; omega
    obtain rfl | rfl | rfl | rfl := hk
    · rw [h0]
      exact ⟨u0, afterTurns_one.2 hu0, hb0⟩
    · exact ⟨u1, afterTurns_succ.2 ⟨u0, hu0, afterTurns_one.2 hu1⟩, hb1⟩
    · exact ⟨u2, afterTurns_succ.2 ⟨u0, hu0, afterTurns_succ.2 ⟨u1, hu1, afterTurns_one.2 hu2⟩⟩, hb2⟩
    · exact ⟨_, h, hb3⟩

/-- Settles O14: the datum is its bytes joined, each read after its own turn. -/
theorem memReadBigEndian : Obligations.MemReadBigEndian := by
  unfold Obligations.MemReadBigEndian
  refine ⟨fun z a s hr => ⟨valueAt z a s, readMem_of_readable hr, fun hu => busRead_of_readable hu hr,
    fun k hk => beByte_valueAt a s hk⟩, fun z a s t => busRead_byteByByte, fun a s hmay hr => ?_⟩
  exact dmaRead_eq_next.2 (.inl ⟨hmay, hr, rfl⟩)

/-! ### Writes -/

/-- Bytes stored one by one, each after a turn of the DMA controller. -/
def busPuts : List (Quad × Byte) → State → Out State
  | [], s => .next s
  | x :: xs, s => andThen (busPut x.1 x.2 s) (busPuts xs)

theorem andThen_pure {α : Type} (x : Out α) : (andThen x fun a => .next a) = x := by cases x <;> rfl

theorem busSet_eq_busPuts (z : Size) (a : Quad) (v : BitVec (Size.bits z)) (s : State) :
    busSet z a v s = busPuts (datumBytes z a v) s := by
  have h0 : a + BitVec.ofNat 32 0 = a := BitVec.add_zero a
  cases z
  all_goals
    simp only [datumBytes, Size.bytes, List.range, List.range.loop, List.map, busPuts, h0, andThen_pure]
    rfl

theorem busSetDown_eq_busPuts (z : Size) (a : Quad) (v : BitVec (Size.bits z)) (s : State) :
    busSetDown z a v s = busPuts (datumBytes z a v).reverse s := by
  have h0 : a + BitVec.ofNat 32 0 = a := BitVec.add_zero a
  cases z
  all_goals
    simp only [datumBytes, Size.bytes, List.range, List.range.loop, List.map, List.reverse, List.reverseAux, busPuts, h0,
      andThen_pure]
    rfl

theorem putValue_byte (a : Quad) (b : Byte) (s : State) : putValue .byte a b s = putByte a b s :=
  congrArg (putByte a · s) (byte_whole b)

theorem writable_byte {d : Device} {a : Quad} (h : writeStop d a = none) : Writable d .byte a := by
  intro b hb
  rw [show Size.bytes .byte = 1 from rfl, bytesFrom_one, List.mem_singleton] at hb
  exact hb ▸ h

theorem stored_putByte {a : Quad} {b : Byte} {s : State} (hm : Memory.wf s.mem) (hw : writeStop s.dev a = none) :
    Stored .byte a b s (putByte a b s) := putValue_byte a b s ▸ stored_putValue (z := .byte) b hm (writable_byte hw)

/-- Bytes that can be stored land one by one, each after a turn of the DMA controller. -/
theorem storedBetween_busPuts {xs : List (Quad × Byte)} {s t : State} (hm : Memory.wf s.mem)
    (hw : ∀ x ∈ xs, writeStop s.dev x.1 = none) (h : busPuts xs s = .next t) : StoredBetween xs s t := by
  induction xs generalizing s with
  | nil => exact (next_inj.1 h).symm
  | cons x xs ih =>
    obtain ⟨w, hput, hrest⟩ := andThen_eq_next.1 h
    obtain ⟨u, hturn, rfl⟩ := andThen_next_eq_next.1 hput
    have hmem := dmaTurn_memoryOnly hturn
    obtain ⟨hx, hxs⟩ := List.forall_mem_cons.1 hw
    refine ⟨u, _, hturn, stored_putByte (hmem.wf hm) (hmem.dev.symm ▸ hx), ih (putByte_mem_wf _ _ _ (hmem.wf hm)) ?_ hrest⟩
    rw [putByte_dev, hmem.dev]
    exact hxs

theorem busWrite_split {z : Size} {a : Quad} {v : BitVec (Size.bits z)} {s t : State} (h : busWrite z a v s = .next t) :
    Writable s.dev z a ∧ busPuts (datumBytes z a v) s = .next t := by
  obtain ⟨_, hstop, h⟩ := andThen_eq_next.1 h
  exact ⟨List.findSome?_eq_none_iff.1 (unlessStop_eq_next.1 hstop).1, busSet_eq_busPuts z a v s ▸ h⟩

theorem busWriteDown_split {z : Size} {a : Quad} {v : BitVec (Size.bits z)} {s t : State}
    (h : busWriteDown z a v s = .next t) : Writable s.dev z a ∧ busPuts (datumBytes z a v).reverse s = .next t := by
  obtain ⟨_, hstop, h⟩ := andThen_eq_next.1 h
  exact ⟨List.findSome?_eq_none_iff.1 (unlessStop_eq_next.1 hstop).1, busSetDown_eq_busPuts z a v s ▸ h⟩

theorem busWrite_storedBetween {z : Size} {a : Quad} {v : BitVec (Size.bits z)} {s t : State} (hm : Memory.wf s.mem)
    (h : busWrite z a v s = .next t) : StoredBetween (datumBytes z a v) s t := by
  obtain ⟨hw, hputs⟩ := busWrite_split h
  exact storedBetween_busPuts hm (forall_mem_datumBytes.2 (writable_iff.1 hw)) hputs

theorem busWriteDown_storedBetween {z : Size} {a : Quad} {v : BitVec (Size.bits z)} {s t : State} (hm : Memory.wf s.mem)
    (h : busWriteDown z a v s = .next t) : StoredBetween (datumBytes z a v).reverse s t := by
  obtain ⟨hw, hputs⟩ := busWriteDown_split h
  refine storedBetween_busPuts hm (fun x hx => ?_) hputs
  have hall : ∀ y ∈ datumBytes z a v, writeStop s.dev y.1 = none := forall_mem_datumBytes.2 (writable_iff.1 hw)
  exact hall x (List.mem_reverse.1 hx)

/-- The DMA controller's turn makes the write that it has planned. -/
theorem dmaTurn_planned_write {a : Quad} {v : Byte} {plan : List (List DmaAccess)} {s : State} (hmay : dmaMay s a = true)
    (hw : Writable s.dev .byte a) (hplan : s.dmaPlan = [.write a v] :: plan) :
    dmaTurn s = .next (putValue .byte a v { s with dmaPlan := plan }) := by
  have hatm : s.atmCount = 0 := by
    have := hmay
    simp only [dmaMay, Bool.and_eq_true, beq_iff_eq] at this
    exact this.1
  have hwrite : dmaWrite a v { s with dmaPlan := plan } = .next (putValue .byte a v { s with dmaPlan := plan }) :=
    dmaWrite_eq_next.2 (.inl ⟨hmay, hw, rfl⟩)
  unfold dmaTurn
  rw [if_pos hatm, hplan]
  show andThen (dmaWrite a v { s with dmaPlan := plan }) _ = _
  rw [hwrite]
  rfl

/-- Settles O15: what a store leaves where nothing comes between its bytes, and in any state its bytes one by one. -/
theorem memWriteBigEndian : Obligations.MemWriteBigEndian := by
  unfold Obligations.MemWriteBigEndian
  refine ⟨fun z a v s hm hw => ?_, fun z a v s t => busWrite_storedBetween, fun z a v s t => busWriteDown_storedBetween,
    fun z v s t hm h => busWriteDown_storedBetween hm h, fun a v s hm hmay hw => ?_, fun a v plan s hm hmay hw hplan => ?_⟩
  · exact ⟨_, writeMem_of_writable hw, stored_putValue v hm hw, fun hu =>
      ⟨busWrite_of_writable hu hw, busWriteDown_of_writable hu hm hw⟩⟩
  · exact ⟨_, dmaWrite_eq_next.2 (.inl ⟨hmay, hw, rfl⟩), stored_putValue (z := .byte) v hm hw⟩
  · exact ⟨_, dmaTurn_planned_write hmay hw hplan, stored_putValue (z := .byte) (s := { s with dmaPlan := plan }) v hm hw⟩

end Sys2Proof.Claims

/-! What stands where no memory is: accesses that stop, I/O addresses without a register, and the control registers. -/

namespace Sys2Proof.Claims

open Sys2Proof.Machine

/-! ### Accesses that stop -/

theorem readable_iff {d : Device} {z : Size} {a : Quad} :
    Readable d z a ↔ ∀ k < Size.bytes z, readStop d (a + BitVec.ofNat 32 k) = none := by
  simp [Readable, bytesFrom]

theorem readable_byte {d : Device} {a : Quad} (h : readStop d a = none) : Readable d .byte a := by
  intro b hb
  rw [show Size.bytes .byte = 1 from rfl, bytesFrom_one, List.mem_singleton] at hb
  exact hb ▸ h

/-- No read with a byte that stops answers. -/
theorem read_stops {z : Size} {a : Quad} {s : State} (h : ¬Readable s.dev z a) :
    (∀ w, readMem z a s ≠ .next w) ∧ ∀ w, busRead z a s ≠ .next w := by
  refine ⟨fun w hw => h (readMem_eq_next.1 hw).1, fun w hw => h ?_⟩
  obtain ⟨_, hstop, -⟩ := andThen_eq_next.1 hw
  exact List.findSome?_eq_none_iff.1 (unlessStop_eq_next.1 hstop).1

/-- No write with a byte that stops answers. -/
theorem write_stops {z : Size} {a : Quad} {s : State} (v : BitVec (Size.bits z)) (h : ¬Writable s.dev z a) (t : State) :
    writeMem z a v s ≠ .next t ∧ busWrite z a v s ≠ .next t ∧ busWriteDown z a v s ≠ .next t :=
  ⟨fun hw => h (writeMem_eq_next.1 hw).1, fun hw => h (busWrite_split hw).1, fun hw => h (busWriteDown_split hw).1⟩

/-- A byte read stops for the reason of its place. -/
theorem readByte_stop {a : Quad} {s : State} {r : Stop} (h : readStop s.dev a = some r) :
    readMem .byte a s = unlessStop (some r) (byteAt a s) ∧
      busRead .byte a s = andThen (unlessStop (some r) ()) fun _ => busGet .byte a s := by
  have hfind : (bytesFrom (Size.bytes .byte) a).findSome? (readStop s.dev) = some r := by
    rw [show Size.bytes .byte = 1 from rfl, bytesFrom_one]
    simp [h]
  exact ⟨by unfold readMem; rw [hfind]; rfl, by unfold busRead; rw [hfind]⟩

theorem writeByte_stop {a : Quad} {b : Byte} {s : State} {r : Stop} (h : writeStop s.dev a = some r) :
    writeMem .byte a b s = unlessStop (some r) (putValue .byte a b s) ∧
      busWrite .byte a b s = (andThen (unlessStop (some r) ()) fun _ => busSet .byte a b s) ∧
      busWriteDown .byte a b s = andThen (unlessStop (some r) ()) fun _ => busSetDown .byte a b s := by
  have hfind : (bytesFrom (Size.bytes .byte) a).findSome? (writeStop s.dev) = some r := by
    rw [show Size.bytes .byte = 1 from rfl, bytesFrom_one]
    simp [h]
  exact ⟨by unfold writeMem; rw [hfind], by unfold busWrite; rw [hfind], by unfold busWriteDown; rw [hfind]⟩

/-! ### I/O addresses without a register -/

/-- An I/O address without a register reads FFH, and a byte written there is lost (R87). -/
theorem ioUnavailable_access {a : Quad} {s : State} (b : Byte) (h : locate s.dev a = .ioUnavailable) :
    byteAt a s = 0xFF#8 ∧ putByte a b s = s ∧ readStop s.dev a = none ∧ writeStop s.dev a = none := by
  unfold byteAt putByte readStop writeStop
  rw [h]
  exact ⟨rfl, rfl, rfl, rfl⟩

theorem busWrite_byte_of_turn {a : Quad} {b : Byte} {s t : State} (hw : writeStop s.dev a = none)
    (h : dmaTurn s = .next t) : busWrite .byte a b s = .next (putByte a b t) ∧ busWriteDown .byte a b s = .next (putByte a b t) := by
  have hfind : (bytesFrom (Size.bytes .byte) a).findSome? (writeStop s.dev) = none :=
    List.findSome?_eq_none_iff.2 (writable_byte hw)
  have hput : busPut a (byteOf b 0) s = .next (putByte a b t) := by
    unfold busPut
    rw [h, byte_whole]
    rfl
  exact ⟨by unfold busWrite; rw [hfind]; exact hput, by unfold busWriteDown; rw [hfind]; exact hput⟩

theorem ioUnavailable_result {a : Quad} {s : State} (b : Byte) (h : locate s.dev a = .ioUnavailable) :
    readMem .byte a s = .next 0xFF#8 ∧ writeMem .byte a b s = .next s ∧
      ∀ t, dmaTurn s = .next t → busRead .byte a s = .next (0xFF#8, t) ∧ busWrite .byte a b s = .next t
        ∧ busWriteDown .byte a b s = .next t := by
  obtain ⟨hbyte, hput, hr, hw⟩ := ioUnavailable_access b h
  refine ⟨readMem_eq_next.2 ⟨readable_byte hr, hbyte.symm⟩, writeMem_eq_next.2 ⟨writable_byte hw, ?_⟩, fun t ht => ?_⟩
  · rw [putValue_byte, hput]
  · obtain ⟨hbyte', hput', -, -⟩ := ioUnavailable_access b ((dmaTurn_memoryOnly ht).dev.symm ▸ h)
    obtain ⟨hbw, hbd⟩ := busWrite_byte_of_turn (b := b) hw ht
    rw [hput'] at hbw hbd
    refine ⟨?_, hbw, hbd⟩
    rw [busRead_eq_busGet (readable_byte hr)]
    exact (busByte_of_turn ht).trans (hbyte' ▸ rfl)

/-- Settles O16: a byte that stops stops its access, and the place says why. -/
theorem accessWithoutMemory : Obligations.AccessWithoutMemory := by
  unfold Obligations.AccessWithoutMemory
  intro z a v b s
  refine ⟨ioUnavailable_result b, fun h => ?_, fun h => ?_, fun h => ?_, fun h => ?_, fun p h => ?_⟩
  · obtain ⟨k, hk, hloc⟩ := h
    have hread : ¬Readable s.dev z a := by
      intro hr
      have := readable_iff.1 hr k hk
      unfold readStop at this
      obtain hloc | hloc := hloc <;> simp [hloc] at this
    obtain ⟨hrm, hrb⟩ := read_stops hread
    exact ⟨hrm, hrb, write_stops v fun hw => hread hw.readable⟩
  · obtain ⟨k, hk, p, hloc⟩ := h
    refine write_stops v fun hw => ?_
    have := writable_iff.1 hw k hk
    simp [writeStop, hloc] at this
  · obtain ⟨r1, r2⟩ := readByte_stop (a := a) (s := s) (r := .fault .unavailableAddress) (by simp [readStop, h])
    obtain ⟨w1, w2, w3⟩ := writeByte_stop (a := a) (s := s) (b := b) (r := .fault .unavailableAddress) (by simp [writeStop, h])
    exact ⟨r1, r2, w1, w2, w3⟩
  · obtain ⟨r1, r2⟩ := readByte_stop (a := a) (s := s) (r := .refuse .peripheralRegister) (by simp [readStop, h])
    obtain ⟨w1, w2, w3⟩ := writeByte_stop (a := a) (s := s) (b := b) (r := .refuse .peripheralRegister) (by simp [writeStop, h])
    exact ⟨r1, r2, w1, w2, w3⟩
  · obtain ⟨w1, w2, w3⟩ := writeByte_stop (a := a) (s := s) (b := b) (r := .refuse .storeToNonVolatile) (by simp [writeStop, h])
    exact ⟨w1, w2, w3⟩

/-! ### Control registers -/

/-- An address of the I/O block is at its offset in it, with 24 address bits and with 32 (R87). -/
theorem locate_io (d : Device) {o : Nat} (ho : o < 0x2000) :
    locate d (BitVec.ofNat 32 (0xFFFFE000 + o)) = locateIo d o := by
  have hoff : ioBase d ≤ physical d (BitVec.ofNat 32 (0xFFFFE000 + o)) ∧
      physical d (BitVec.ofNat 32 (0xFFFFE000 + o)) - ioBase d = o := by
    unfold physical ioBase
    cases d.addrWidth <;> simp only [AddrWidth.space, AddrWidth.ioBase, BitVec.toNat_ofNat] <;> omega
  obtain ⟨hle, heq⟩ := hoff
  unfold locate
  rw [if_pos hle, heq]

theorem locate_controlRegisters (d : Device) :
    (∀ i < 4, locate d (0xFFFFE004#32 + BitVec.ofNat 32 i) = .pcov i ∧ locate d (0xFFFFE00C#32 + BitVec.ofNat 32 i) = .spov i)
      ∧ locate d 0xFFFFE010#32 = .flags ∧ locate d 0xFFFFE012#32 = .cpuctl := by
  refine ⟨fun i hi => ?_, locate_io d (o := 0x10) (by decide), locate_io d (o := 0x12) (by decide)⟩
  have hi : i = 0 ∨ i = 1 ∨ i = 2 ∨ i = 3 := by omega
  obtain rfl | rfl | rfl | rfl := hi
  · exact ⟨locate_io d (o := 4) (by decide), locate_io d (o := 12) (by decide)⟩
  · exact ⟨locate_io d (o := 5) (by decide), locate_io d (o := 13) (by decide)⟩
  · exact ⟨locate_io d (o := 6) (by decide), locate_io d (o := 14) (by decide)⟩
  · exact ⟨locate_io d (o := 7) (by decide), locate_io d (o := 15) (by decide)⟩

/-- A quad whose bytes are those of a control register is it. -/
theorem valueAt_quad_eq {a v : Quad} {s : State} (h : ∀ i < 4, byteAt (a + BitVec.ofNat 32 i) s = quadByte v i) :
    valueAt .quad a s = v := by
  have h0 := h 0 (by decide)
  have h1 := h 1 (by decide)
  have h2 := h 2 (by decide)
  have h3 := h 3 (by decide)
  rw [BitVec.add_zero] at h0
  unfold valueAt
  rw [h0, h1, h2, h3]
  exact bytes_join_quad v

/-- With 24 address bits the high byte of an address selects nothing (R81, D2). -/
theorem locate_bits24 {d : Device} (h : d.addrWidth = .bits24) (a : Quad) : locate d a = locate d (a ||| 0xFF000000#32) := by
  apply locate_congr
  unfold physical
  rw [h, BitVec.toNat_or]
  show _ % 2 ^ 24 = _ % 2 ^ 24
  rw [Nat.or_mod_two_pow]
  exact (Nat.or_zero _).symm

/-- Settles O17: the offsets of the registers in the I/O block, and their bytes joined. -/
theorem controlRegisterBytes : Obligations.ControlRegisterBytes := by
  unfold Obligations.ControlRegisterBytes
  intro s
  obtain ⟨hquads, hflags, hcpuctl⟩ := locate_controlRegisters s.dev
  refine ⟨valueAt_quad_eq fun i hi => ?_, valueAt_quad_eq fun i hi => ?_, ?_, ?_, hquads, hflags, hcpuctl,
    fun a h => locate_bits24 h a, fun a ⟨p, hp⟩ => (locate_eq_memory hp).2⟩
  · unfold byteAt; rw [(hquads i hi).1]
  · unfold byteAt; rw [(hquads i hi).2]
  · unfold byteAt; rw [hflags]
  · unfold byteAt; rw [hcpuctl]

/-! ### SYSEXCP -/

theorem writesOne_zero (base pos : Nat) : writesOne base pos 0#8 = false := by simp [writesOne]

theorem clearSysExcp_zero (l : SysExcpLayout) (i : Nat) (x : SysExcp) : clearSysExcp l i 0#8 x = x := by
  have hextra : x.extra.filter (fun _ => true) = x.extra := List.filter_eq_self.2 fun _ _ => rfl
  simp only [clearSysExcp, writesOne_zero, Bool.not_false, Bool.and_true, hextra]

theorem writesOne_eq (base pos : Nat) (b : Byte) :
    writesOne base pos b = (decide (base ≤ pos ∧ pos < base + 8) && b.getLsbD (pos - base)) := by
  rw [writesOne, inWindow, Bool.decide_and]

theorem putByte_sysexcp {a : Quad} {b : Byte} {l : SysExcpLayout} {i : Nat} {s : State} (h : locate s.dev a = .sysexcp l i) :
    putByte a b s = { s with sysexcp := clearSysExcp l i b s.sysexcp } := by
  unfold putByte
  rw [h]

/-- Settles O18: what the store of a byte to SYSEXCP does, bit by bit. -/
theorem sysExcpWriteOneClears : Obligations.SysExcpWriteOneClears := by
  unfold Obligations.SysExcpWriteOneClears
  intro a b l i s h
  have hw : writeStop s.dev a = none := by simp [writeStop, h]
  have hput := putByte_sysexcp (b := b) h
  refine ⟨_, writeMem_eq_next.2 ⟨writable_byte hw, (hput.symm.trans (putValue_byte a b s).symm)⟩, ?_⟩
  simp only [← writesOne_eq]
  refine ⟨?_, rfl, rfl, rfl, rfl, rfl, rfl, fun hb => ?_⟩
  · unfold byteAt
    simp only [h]
    exact sysExcpByte_clear_same l i b s.sysexcp
  · rw [hb, clearSysExcp_zero]

end Sys2Proof.Claims

/-! Loads, stores and the stack: what each leaves where the DMA controller does nothing between the accesses. -/

namespace Sys2Proof.Claims

open Sys2Proof.Machine

/-! ### Frames and requests -/

theorem OnlyRegs.mono {rs qs : List Reg} {s t : State} (h : OnlyRegs rs s t) (hsub : ∀ r ∈ rs, r ∈ qs) : OnlyRegs qs s t :=
  { h with
    regs := fun q hq => h.regs q fun hr => hq (hsub q hr)
    request := fun hq => h.request fun hr => hq (hsub spReg hr) }

theorem After.mono {rs qs : List Reg} {flags : Byte} {s t : State} (h : After rs flags s t) (hsub : ∀ r ∈ rs, r ∈ qs) :
    After qs flags s t := ⟨h.only.mono hsub, h.flags, h.pc⟩

theorem spovReq_writeReg_sp (s : State) (v : Quad) :
    (s.writeReg spReg v).spovReq = (s.spovReq || decide (v.toNat < s.spov.toNat)) := by
  rw [writeReg_spovReq, beq_self_eq_true, Bool.true_and]
  rfl

theorem requested_writeSp (s : State) (v : Quad) : Requested [v] s (s.writeReg spReg v) := by
  rw [Requested, spovReq_writeReg_sp, List.any_cons, List.any_nil, Bool.or_false]

theorem requested_nil {s t : State} (h : t.spovReq = s.spovReq) : Requested [] s t := by
  rw [Requested, h, List.any_nil, Bool.or_false]

/-- Writes of R15 in sequence, where SPOV stays between them. -/
theorem Requested.trans {vs ws : List Quad} {s t u : State} (h : Requested vs s t) (hspov : t.spov = s.spov)
    (k : Requested ws t u) : Requested (vs ++ ws) s u := by
  rw [Requested, k, h, hspov, List.any_append, Bool.or_assoc]

theorem spovReq_writeReg_other {r : Reg} (h : r ≠ spReg) (s : State) (v : Quad) :
    (s.writeReg r v).spovReq = s.spovReq := by
  rw [writeReg_spovReq, beq_false_of_ne h, Bool.false_and, Bool.or_false]

/-! ### Loads -/

/-- The flags of a load: B only (R319). -/
theorem patchGives_blank {n : Nat} (s : State) (v : BitVec n) :
    PatchGives s (blankPatch (blank1 v))
      fun f => resultFlags s (flagC f) (flagZ f) (flagS f) (flagV f) (isZero v) f := by
  intro u hu
  rw [patchGives_result s _ u hu, ← blank1_eq]
  rfl

theorem loadClash_eq_true {rd : Reg} {m : LoadMem} : loadClash rd m = true ↔ m = .postInc rd := by
  cases m <;> simp [loadClash]

theorem load_clash {k : LoadKind} {rd : Reg} (s : State) : load k rd (.postInc rd) s = .refused .pointerOverlap := by
  unfold load
  rw [if_pos (loadClash_eq_true.2 rfl)]

/-- What a load leaves: the pointer updated, the register written and B. -/
theorem load_of_readable {k : LoadKind} {rd : Reg} {m : LoadMem} {s : State} (hm : m ≠ .postInc rd) (hu : Undisturbed s)
    (hr : Readable s.dev (kindSize k) (eaLoad m s)) :
    load k rd m s = .next (((loadUpdate k m s).writeReg rd (kindExtend k (valueAt (kindSize k) (eaLoad m s) s))).setFlags
      (blankPatch (blank1 (valueAt (kindSize k) (eaLoad m s) s)))) :=
  (load_eq_next hu).2 ⟨Bool.eq_false_iff.2 fun h => hm (loadClash_eq_true.1 h), hr, rfl⟩

theorem load_reg {k : LoadKind} {rd : Reg} {m : LoadMem} {s : State} {t : State} (hm : m ≠ .postInc rd) (hu : Undisturbed s)
    (hr : Readable s.dev (kindSize k) (eaLoad m s)) (h : load k rd m s = .next t) :
    Extended k (valueAt (kindSize k) (eaLoad m s) s) (t.reg rd) := by
  rw [load_of_readable hm hu hr] at h
  rw [← next_inj.1 h, setFlags_reg, reg_writeReg_same]
  exact extended_kindExtend k _

/-- A postincrement load writes two registers. -/
theorem load_postInc {k : LoadKind} {rd rs : Reg} {s : State} (hne : rs ≠ rd) (hu : Undisturbed s)
    (hr : Readable s.dev (kindSize k) (s.reg rs)) :
    ∃ t, load k rd (.postInc rs) s = .next t ∧ Extended k (valueAt (kindSize k) (s.reg rs) s) (t.reg rd)
      ∧ t.reg rs = s.reg rs + sizeQuad (kindSize k)
      ∧ After [rd, rs] (resultFlags s (flagC s.flags) (flagZ s.flags) (flagS s.flags) (flagV s.flags)
          (isZero (valueAt (kindSize k) (s.reg rs) s)) s.flags) s t := by
  have hm : (.postInc rs : LoadMem) ≠ .postInc rd := fun h => hne (LoadMem.postInc.inj h)
  have ht := load_of_readable (k := k) (m := .postInc rs) hm hu hr
  refine ⟨_, ht, load_reg (m := .postInc rs) hm hu hr ht, ?_, ?_⟩
  · exact (reg_writeReg_writeReg hne _ _ _).1
  · refine (after_writeReg_writeReg_setFlags (patchGives_blank s _ s rfl)).mono fun r hr => ?_
    simpa [or_comm] using hr

/-- Any other load writes one. -/
theorem load_plain {k : LoadKind} {rd : Reg} {m : LoadMem} {s : State} (hm : ∀ rs, m ≠ .postInc rs) (hu : Undisturbed s)
    (hr : Readable s.dev (kindSize k) (eaLoad m s)) :
    ∃ t, load k rd m s = .next t ∧ Extended k (valueAt (kindSize k) (eaLoad m s) s) (t.reg rd)
      ∧ After [rd] (resultFlags s (flagC s.flags) (flagZ s.flags) (flagS s.flags) (flagV s.flags)
          (isZero (valueAt (kindSize k) (eaLoad m s) s)) s.flags) s t := by
  have ht := load_of_readable (k := k) (hm rd) hu hr
  refine ⟨_, ht, load_reg (hm rd) hu hr ht, ?_⟩
  have hupdate : loadUpdate k m s = s := by
    cases m
    case postInc rs => exact absurd rfl (hm rs)
    all_goals rfl
  rw [hupdate]
  exact after_writeReg_setFlags (patchGives_blank s _ s rfl)

/-- Settles O36: a postincrement load writes its pointer too, unless it is its own destination. -/
theorem loadFromMemory : Obligations.LoadFromMemory := by
  unfold Obligations.LoadFromMemory
  intro k rd m s
  simp only [exec_loadInstr]
  refine ⟨fun hm hu hr => ?_, fun hm => hm ▸ load_clash s⟩
  cases m
  case postInc rs => exact load_postInc (fun h => hm (congrArg _ h)) hu hr
  all_goals exact load_plain (fun rs h => LoadMem.noConfusion h) hu hr

/-- Settles O44: POP is the postincrement load through R15. -/
theorem popOfRegister : Obligations.PopOfRegister := by
  unfold Obligations.PopOfRegister
  intro k rd s
  simp only [exec_popInstr]
  refine ⟨fun hne hu hr => ?_, fun h => h ▸ load_clash s⟩
  exact load_postInc hne.symm hu hr

/-! ### Stores -/

/-- What the store of LD leaves, with its pointer updates. -/
theorem storedTo_putValue {z : Size} {m : StoreMem} {s : State} (v : BitVec (Size.bits z)) (hm : Memory.wf s.mem)
    (hw : Writable s.dev z (eaStore m (storeBefore z m s))) :
    StoredTo z m v s (storeAfter z m (putValue z (eaStore m (storeBefore z m s)) v (storeBefore z m s))) := by
  refine ⟨_, stored_putValue v hm hw, ?_⟩
  cases m
  case preDec rd =>
    have hput := putValue_writeReg z (eaStore (.preDec rd) (storeBefore z (.preDec rd) s)) v s rd (s.reg rd - sizeQuad z)
    have hbefore : storeBefore z (.preDec rd) s = s.writeReg rd (s.reg rd - sizeQuad z) := rfl
    rw [← hbefore] at hput
    refine ⟨?_, ?_, fun q hq => ?_, fun hne => ?_⟩
    · exact hput.trans (by rw [hput]; rfl)
    · exact (putValue_reg ..).trans (reg_writeReg_same s rd _)
    · exact (putValue_reg ..).trans (reg_writeReg_other s _ (List.ne_of_not_mem_cons hq))
    · exact (putValue_spovReq ..).trans (spovReq_writeReg_other hne s _)
  case postInc rd =>
    refine ⟨rfl, ?_, fun q hq => ?_, fun hne => ?_⟩
    · exact (reg_writeReg_same ..).trans (by rw [putValue_reg]; rfl)
    · exact (reg_writeReg_other _ _ (List.ne_of_not_mem_cons hq)).trans (putValue_reg ..)
    · exact (spovReq_writeReg_other hne _ _).trans (putValue_spovReq ..)
  all_goals exact ⟨rfl, rfl⟩

/-- The register that a store reads, after a predecrement of it (D24). -/
theorem storeBefore_reg_source (z : Size) (m : StoreMem) (rs : Reg) (s : State) :
    (storeBefore z m s).reg rs = if m = .preDec rs then s.reg rs - sizeQuad z else s.reg rs := by
  cases m
  case preDec rd =>
    by_cases h : rs = rd
    · subst h
      rw [if_pos rfl]
      exact reg_writeReg_same s rs _
    · rw [if_neg fun he => h (StoreMem.preDec.inj he).symm]
      exact reg_writeReg_other s _ h
  all_goals rfl

/-- Settles O40: the store in the state after a predecrement, and in any state its bytes one by one. -/
theorem storeOfRegister : Obligations.StoreOfRegister := by
  unfold Obligations.StoreOfRegister
  simp only [exec_storeInstr, ← storeBefore_reg_source]
  refine ⟨fun z m rs s hu hm hw => ?_, fun z rd rs s t hm h => ?_⟩
  · exact ⟨_, (store_eq_next hu hm).2 ⟨by rwa [storeBefore_dev], rfl⟩, storedTo_putValue _ hm hw⟩
  · obtain ⟨u, hput, rfl⟩ := andThen_next_eq_next.1 h
    exact busWriteDown_storedBetween (s := s.writeReg rd (s.reg rd - sizeQuad z)) hm hput

theorem storeConst_result {z : Size} {m : StoreMem} {s : State} (v : BitVec (Size.bits z)) (hu : Undisturbed s)
    (hm : Memory.wf s.mem) (hw : Writable s.dev z (eaStore m (storeBefore z m s))) :
    ∃ t, storeConst z m v s = .next t ∧ StoredTo z m v s t :=
  ⟨_, (storeConst_eq_next hu hm).2 ⟨by rwa [storeBefore_dev], rfl⟩, storedTo_putValue v hm hw⟩

/-- Settles O41: a store of a constant, whatever the immediate's form. -/
theorem storeOfImmediate : Obligations.StoreOfImmediate := by
  unfold Obligations.StoreOfImmediate
  intro m rd val z v s hval hu hm hw
  have hdest : ptrMem m rd = destination m rd := by cases m <;> rfl
  have hexec : exec (storeImmInstr m rd val) s = storeConst z (destination m rd) v s := by
    rw [exec_storeImmInstr, ← hdest]
    cases hval <;> rfl
  rw [hexec]
  exact storeConst_result v hu hm hw

/-- Settles O42: a store of 0. -/
theorem clearOfMemory : Obligations.ClearOfMemory := by
  unfold Obligations.ClearOfMemory
  intro z m s hu hm hw
  rw [exec_uopInstr]
  exact ⟨_, busWrite_of_writable hu hw, stored_putValue _ hm hw⟩

end Sys2Proof.Claims

/-! Pushes into RAM or external memory, one after the other, and what is made of them: PUSHM, POPM, LINK, UNLINK and CALL. -/

namespace Sys2Proof.Claims

open Sys2Proof.Machine

/-! ### Addresses at an offset -/

theorem add_ofNat_add (a : Quad) (i j : Nat) : a + BitVec.ofNat 32 i + BitVec.ofNat 32 j = a + BitVec.ofNat 32 (i + j) := by
  rw [BitVec.add_assoc, BitVec.ofNat_add]

theorem add_ofNat_sub (a : Quad) {i j : Nat} (h : j ≤ i) :
    a + BitVec.ofNat 32 i - BitVec.ofNat 32 j = a + BitVec.ofNat 32 (i - j) := by
  rw [BitVec.sub_eq_iff_eq_add, add_ofNat_add, Nat.sub_add_cancel h]

/-- Bytes at different offsets are different bytes, below the 16 MB of the smaller address space. -/
theorem physical_offset_ne (d : Device) (a : Quad) {i j : Nat} (hi : i < 2 ^ 24) (hj : j < 2 ^ 24) (h : i ≠ j) :
    physical d (a + BitVec.ofNat 32 i) ≠ physical d (a + BitVec.ofNat 32 j) := by
  unfold physical
  cases d.addrWidth <;> simp only [AddrWidth.space, BitVec.toNat_add, BitVec.toNat_ofNat] <;> omega

theorem outside_offset (d : Device) (a : Quad) {i j n : Nat} (hi : i + n < 2 ^ 24) (hj : j < 2 ^ 24)
    (h : j < i ∨ i + n ≤ j) : Outside d (a + BitVec.ofNat 32 i) n (a + BitVec.ofNat 32 j) := by
  intro k hk
  rw [add_ofNat_add]
  exact physical_offset_ne d a hj (by omega) (by omega)

theorem PlainBytes.offset {d : Device} {a : Quad} {n i m : Nat} (h : PlainBytes d a n) (him : i + m ≤ n) :
    PlainBytes d (a + BitVec.ofNat 32 i) m := by
  intro k hk
  rw [add_ofNat_add]
  exact h (i + k) (by omega)

/-- Bytes outside a block are outside a part of it. -/
theorem Outside.offset {d : Device} {a b : Quad} {n i m : Nat} (h : Outside d a n b) (him : i + m ≤ n) :
    Outside d (a + BitVec.ofNat 32 i) m b := by
  intro k hk
  rw [add_ofNat_add]
  exact h (i + k) (by omega)

theorem valueAt_congr {z : Size} {a : Quad} {s t : State}
    (h : ∀ k < Size.bytes z, byteAt (a + BitVec.ofNat 32 k) t = byteAt (a + BitVec.ofNat 32 k) s) :
    valueAt z a t = valueAt z a s := by
  have h0 : a + BitVec.ofNat 32 0 = a := BitVec.add_zero a
  cases z <;> simp only [Size.bytes] at h <;> unfold valueAt
  · have k0 := h 0 (by decide); rwa [h0] at k0
  · have k0 := h 0 (by decide); rw [h0] at k0
    have k1 := h 1 (by decide)
    rw [k0, k1]
  · have k0 := h 0 (by decide); rw [h0] at k0
    have k1 := h 1 (by decide)
    have k2 := h 2 (by decide)
    have k3 := h 3 (by decide)
    rw [k0, k1, k2, k3]

theorem RegsSameBut.trans {rs : List Reg} {s t u : State} (h : RegsSameBut rs s t) (k : RegsSameBut rs t u) :
    RegsSameBut rs s u := fun q hq => (k q hq).trans (h q hq)

/-! ### A push into RAM or external memory -/

/-- t is s with a datum pushed to a, which is RAM or external memory. -/
structure PlainPushed (z : Size) (a : Quad) (v : BitVec (Size.bits z)) (s t : State) : Prop where
  value : valueAt z a t = v
  bytes : ∀ b, Outside s.dev a (Size.bytes z) b → byteAt b t = byteAt b s
  sp : t.reg spReg = a
  regs : RegsSameBut [spReg] s t
  flags : t.flags = s.flags
  pc : t.pc = s.pc
  control : SameControl s t
  latches : SameLatches s t
  machine : SameMachine s t
  request : Requested [a] s t
  wf : Memory.wf t.mem

theorem PlainBytes.writable {d : Device} {z : Size} {a : Quad} (h : PlainBytes d a (Size.bytes z)) : Writable d z a := by
  refine writable_iff.2 fun k hk => ?_
  obtain ⟨p, hp⟩ := h k hk
  simp [writeStop, hp]

theorem plainPushed_putValue {z : Size} {a : Quad} {s : State} (v : BitVec (Size.bits z)) (hm : Memory.wf s.mem)
    (hp : PlainBytes s.dev a (Size.bytes z)) : PlainPushed z a v s (putValue z a v (s.writeReg spReg a)) := by
  have hst : Stored z a v (s.writeReg spReg a) (putValue z a v (s.writeReg spReg a)) := stored_putValue v hm hp.writable
  have hne : ∀ l, (∀ p, l ≠ .memory p) → ∀ k < Size.bytes z, locate s.dev (a + BitVec.ofNat 32 k) ≠ l := by
    intro l hl k hk he
    obtain ⟨p, hloc⟩ := hp k hk
    exact hl p (he.symm.trans hloc)
  exact {
    value := by
      refine valueAt_putValue z a v _ hm fun b hb => ?_
      obtain ⟨k, hk, rfl⟩ := List.mem_map.1 hb
      exact hp k (List.mem_range.1 hk)
    bytes := hst.bytes
    sp := (hst.regs spReg (List.not_mem_nil)).trans (reg_writeReg_same s spReg a)
    regs := fun q hq => (hst.regs q (List.not_mem_nil)).trans (reg_writeReg_other s a (List.ne_of_not_mem_cons hq))
    flags := hst.flags (hne _ (by simp))
    pc := hst.pc
    control := ⟨hst.pcov fun k hk i => hne _ (by simp) k hk, hst.spov fun k hk i => hne _ (by simp) k hk,
      hst.dmabw (hne _ (by simp)), hst.sysexcp fun k hk l i => hne _ (by simp) k hk⟩
    latches := ⟨hst.latches.ext, hst.latches.noflags⟩
    machine := { hst.machine with }
    request := by rw [Requested, hst.request]; exact requested_writeSp s a
    wf := putValue_mem_wf z a v _ hm }

/-- Undisturbed, the store of a push leaves it. -/
theorem busWriteDown_plainPushed {z : Size} {a : Quad} {s : State} (v : BitVec (Size.bits z)) (hu : Undisturbed s)
    (hm : Memory.wf s.mem) (hp : PlainBytes s.dev a (Size.bytes z)) :
    ∃ t, busWriteDown z a v (s.writeReg spReg a) = .next t ∧ PlainPushed z a v s t :=
  ⟨_, busWriteDown_of_writable (hu.writeReg _ _) hm hp.writable, plainPushed_putValue v hm hp⟩

theorem PlainPushed.undisturbed {z : Size} {a : Quad} {v : BitVec (Size.bits z)} {s t : State} (h : PlainPushed z a v s t)
    (hu : Undisturbed s) : Undisturbed t := hu.of_eq h.machine.atmCount h.machine.dmaPlan

/-! ### PUSHM -/

/-- t is s with these registers pushed, the last one to the base: R15 as it is after its own decrement (D24). -/
structure PushedRegs (base : Quad) (rs : List Reg) (s t : State) : Prop where
  sp : t.reg spReg = base
  values : ∀ (j : Nat) (r : Reg), rs[j]? = some r → valueAt .quad (base + BitVec.ofNat 32 (4 * (rs.length - 1 - j))) t
    = if r = spReg then base + BitVec.ofNat 32 (4 * (rs.length - 1 - j)) else s.reg r
  bytes : ∀ a, Outside s.dev base (4 * rs.length) a → byteAt a t = byteAt a s
  regs : RegsSameBut [spReg] s t
  flags : t.flags = s.flags
  pc : t.pc = s.pc
  control : SameControl s t
  latches : SameLatches s t
  machine : SameMachine s t
  request : Requested ((List.range rs.length).map fun j => base + BitVec.ofNat 32 (4 * (rs.length - 1 - j))) s t

theorem pushedRegs_nil {s : State} {base : Quad} (hsp : s.reg spReg = base) : PushedRegs base [] s s where
  sp := hsp
  values j r h := by simp at h
  bytes _ _ := rfl
  regs _ _ := rfl
  flags := rfl
  pc := rfl
  control := ⟨rfl, rfl, rfl, rfl⟩
  latches := ⟨rfl, rfl⟩
  machine := ⟨rfl, rfl, rfl, rfl, rfl, rfl, rfl, rfl⟩
  request := requested_nil rfl

/-- One register pushed, and then the rest below it. -/
theorem PushedRegs.cons {base : Quad} {r : Reg} {rs : List Reg} {s u t : State} (hlen : 4 * (rs.length + 1) < 2 ^ 24)
    (hpush : PlainPushed .quad (base + BitVec.ofNat 32 (4 * rs.length))
      ((s.writeReg spReg (base + BitVec.ofNat 32 (4 * rs.length))).reg r) s u)
    (h : PushedRegs base rs u t) : PushedRegs base (r :: rs) s t where
  sp := h.sp
  values := by
    intro j q hq
    cases j with
    | zero =>
      obtain rfl : r = q := by simpa using hq
      have hvalue : valueAt .quad (base + BitVec.ofNat 32 (4 * rs.length)) t
          = (s.writeReg spReg (base + BitVec.ofNat 32 (4 * rs.length))).reg r := by
        refine (valueAt_congr fun k hk => ?_).trans hpush.value
        refine h.bytes _ ?_
        rw [add_ofNat_add]
        have := outside_offset u.dev base (i := 0) (n := 4 * rs.length) (j := 4 * rs.length + k) (by omega)
          (by simp only [Size.bytes] at hk; omega) (by omega)
        rwa [show base + BitVec.ofNat 32 0 = base from BitVec.add_zero _] at this
      exact hvalue.trans (reg_writeReg ..)
    | succ j =>
      have hq : rs[j]? = some q := by simpa using hq
      have := h.values j q hq
      rw [show (r :: rs).length - 1 - (j + 1) = rs.length - 1 - j by simp only [List.length_cons]; omega, this]
      by_cases hsp : q = spReg
      · rw [if_pos hsp, if_pos hsp]
      · rw [if_neg hsp, if_neg hsp, hpush.regs q (by simpa using hsp)]
  bytes := by
    intro a ha
    have hdev := hpush.machine.dev
    have hrest : Outside u.dev base (4 * rs.length) a := fun k hk => hdev ▸ ha k (by simp only [List.length_cons]; omega)
    exact (h.bytes a hrest).trans (hpush.bytes a (ha.offset (by simp only [Size.bytes, List.length_cons]; omega)))
  regs := hpush.regs.trans h.regs
  flags := h.flags.trans hpush.flags
  pc := h.pc.trans hpush.pc
  control := hpush.control.trans h.control
  latches := hpush.latches.trans h.latches
  machine := hpush.machine.trans h.machine
  request := by
    have htrans := hpush.request.trans hpush.control.spov h.request
    rw [List.singleton_append] at htrans
    have hlist : ((List.range rs.length).map fun j => base + BitVec.ofNat 32 (4 * (rs.length + 1 - 1 - (j + 1))))
        = (List.range rs.length).map fun j => base + BitVec.ofNat 32 (4 * (rs.length - 1 - j)) :=
      List.map_congr_left fun j _ => by rw [show rs.length + 1 - 1 - (j + 1) = rs.length - 1 - j by omega]
    rw [← hlist] at htrans
    rw [List.length_cons, List.range_succ_eq_map, List.map_cons, List.map_map]
    exact htrans

theorem pushMultiple_pushedRegs {base : Quad} (rs : List Reg) {s : State} (hu : Undisturbed s) (hm : Memory.wf s.mem)
    (hlen : 4 * rs.length < 2 ^ 24) (hp : PlainBytes s.dev base (4 * rs.length))
    (hsp : s.reg spReg = base + BitVec.ofNat 32 (4 * rs.length)) :
    ∃ t, pushMultiple rs s = .next t ∧ PushedRegs base rs s t := by
  induction rs generalizing s with
  | nil => exact ⟨s, rfl, pushedRegs_nil (hsp.trans (BitVec.add_zero base))⟩
  | cons r rs ih =>
    rw [List.length_cons] at hlen hp hsp
    have ha : s.sp - 4#32 = base + BitVec.ofNat 32 (4 * rs.length) := by
      rw [show s.sp = s.reg spReg from rfl, hsp]
      exact add_ofNat_sub base (i := 4 * (rs.length + 1)) (j := 4) (by omega)
    have hslot : PlainBytes s.dev (base + BitVec.ofNat 32 (4 * rs.length)) 4 := hp.offset (by omega)
    obtain ⟨u, hput, hpush⟩ := busWriteDown_plainPushed (z := .quad)
      ((s.writeReg spReg (base + BitVec.ofNat 32 (4 * rs.length))).reg r) hu hm hslot
    have hrest : PlainBytes u.dev base (4 * rs.length) := by
      rw [hpush.machine.dev]
      exact fun k hk => hp k (by omega)
    obtain ⟨t, ht, hregs⟩ := ih (hpush.undisturbed hu) hpush.wf (by omega) hrest hpush.sp
    refine ⟨t, ?_, hregs.cons hlen hpush⟩
    rw [pushMultiple_cons, ha, sp_writeReg, hput]
    exact ht

theorem filterMap_if_eq_map_filter {α β : Type} (p : α → Bool) (f : α → β) (xs : List α) :
    (xs.filterMap fun x => if p x then some (f x) else none) = (xs.filter p).map f := by
  induction xs with
  | nil => rfl
  | cons x xs ih => cases hx : p x <;> simp [hx, ih]

theorem pushMask_eq (high : Bool) (mask : BitVec 8) : pushMask (if high then 15 else 7) mask = pushedRegs high mask :=
  (filterMap_if_eq_map_filter (fun k => mask.getLsbD k) _ _).symm

theorem popMask_eq (high : Bool) (mask : BitVec 8) : popMask (if high then 8 else 0) mask = poppedRegs high mask :=
  (filterMap_if_eq_map_filter (fun k => mask.getLsbD k) _ _).symm

theorem exec_pushm (high : Bool) (mask : BitVec 8) (s : State) :
    exec (if high then .pushmHi mask else .pushmLo mask) s = pushMultiple (pushedRegs high mask) s := by
  rw [← pushMask_eq]
  cases high <;> rfl

theorem exec_popm (high : Bool) (mask : BitVec 8) (s : State) :
    exec (if high then .popmHi mask else .popmLo mask) s = popMultiple (poppedRegs high mask) s := by
  rw [← popMask_eq]
  cases high <;> rfl

theorem pushedRegs_length (high : Bool) (mask : BitVec 8) : (pushedRegs high mask).length ≤ 8 := List.length_filterMap_le ..

/-- Settles O46: the registers pushed one below the other, addressed from the old SP. -/
theorem pushOfMany : Obligations.PushOfMany := by
  unfold Obligations.PushOfMany
  intro high mask s hu hm
  have hlen := pushedRegs_length high mask
  rw [exec_pushm]
  generalize pushedRegs high mask = rs at hlen
  dsimp only
  intro hp
  have hsp : s.reg spReg = s.reg spReg - BitVec.ofNat 32 (4 * rs.length) + BitVec.ofNat 32 (4 * rs.length) :=
    (BitVec.sub_add_cancel _ _).symm
  have hslot : ∀ j, j < rs.length → s.reg spReg - BitVec.ofNat 32 (4 * (j + 1))
      = s.reg spReg - BitVec.ofNat 32 (4 * rs.length) + BitVec.ofNat 32 (4 * (rs.length - 1 - j)) := by
    intro j hj
    conv => lhs; rw [hsp]
    have := add_ofNat_sub (s.reg spReg - BitVec.ofNat 32 (4 * rs.length)) (i := 4 * rs.length) (j := 4 * (j + 1)) (by omega)
    rw [this, show 4 * rs.length - 4 * (j + 1) = 4 * (rs.length - 1 - j) by omega]
  obtain ⟨t, ht, h⟩ := pushMultiple_pushedRegs rs hu hm (by omega) hp hsp
  refine ⟨t, ht, h.sp, fun j r hj => ?_, h.bytes, h.regs, h.flags, h.pc, h.control, h.latches, h.machine, ?_⟩
  · rw [hslot j (List.getElem?_eq_some_iff.1 hj).1]
    exact h.values j r hj
  · have hlist : ((List.range rs.length).map fun j => s.reg spReg - BitVec.ofNat 32 (4 * (j + 1)))
        = (List.range rs.length).map fun j =>
          s.reg spReg - BitVec.ofNat 32 (4 * rs.length) + BitVec.ofNat 32 (4 * (rs.length - 1 - j)) :=
      List.map_congr_left fun j hj => hslot j (List.mem_range.1 hj)
    rw [hlist]
    exact h.request

end Sys2Proof.Claims

/-! POPM, LINK and UNLINK, and CALL. -/

namespace Sys2Proof.Claims

open Sys2Proof.Machine

/-! ### POPM -/

theorem valueAt_writeReg (z : Size) (a : Quad) (s : State) (r : Reg) (v : Quad) :
    valueAt z a (s.writeReg r v) = valueAt z a s := by cases z <;> rfl

/-- t is s with these registers popped from SP up. -/
structure PoppedRegs (rs : List Reg) (s t : State) : Prop where
  values : ∀ (j : Nat) (r : Reg), rs[j]? = some r → t.reg r = valueAt .quad (s.reg spReg + BitVec.ofNat 32 (4 * j)) s
  sp : t.reg spReg = s.reg spReg + BitVec.ofNat 32 (4 * rs.length)
  after : After (spReg :: rs) s.flags s t
  request : Requested ((List.range rs.length).map fun j => s.reg spReg + BitVec.ofNat 32 (4 * (j + 1))) s t

theorem poppedRegs_nil (s : State) : PoppedRegs [] s s where
  values j r h := by simp at h
  sp := (BitVec.add_zero _).symm
  after := ⟨⟨fun _ _ => rfl, fun _ _ => rfl, ⟨rfl, rfl, rfl, rfl⟩, ⟨rfl, rfl⟩, ⟨rfl, rfl, rfl, rfl, rfl, rfl, rfl, rfl⟩,
    fun _ => rfl⟩, rfl, rfl⟩
  request := requested_nil rfl

/-- s with one register popped: the register loaded with v, and SP raised. -/
def popOne (r : Reg) (v : Quad) (s : State) : State := (s.writeReg r v).writeReg spReg (s.reg spReg + 4#32)

section
variable (r : Reg) (v : Quad) (s : State)

theorem popOne_sp : (popOne r v s).reg spReg = s.reg spReg + BitVec.ofNat 32 4 := reg_writeReg_same ..

theorem popOne_reg (hr : r ≠ spReg) : (popOne r v s).reg r = v := by
  rw [popOne, reg_writeReg_other _ _ hr, reg_writeReg_same]

theorem popOne_valueAt (z : Size) (a : Quad) : valueAt z a (popOne r v s) = valueAt z a s :=
  (valueAt_writeReg ..).trans (valueAt_writeReg ..)

theorem popOne_after : After [spReg, r] s.flags s (popOne r v s) where
  only := ((onlyRegs_writeReg s r v).trans (onlyRegs_writeReg _ spReg _)).mono fun q hq => by simpa [or_comm] using hq
  flags := rfl
  pc := rfl

theorem popOne_request (hr : r ≠ spReg) : Requested [s.reg spReg + 4#32] s (popOne r v s) := by
  have hother : Requested [] s (s.writeReg r v) := requested_nil (spovReq_writeReg_other hr s v)
  exact hother.trans rfl (requested_writeSp (s.writeReg r v) (s.reg spReg + 4#32))

end

/-- One register popped, and then the rest above it. -/
theorem PoppedRegs.cons {r : Reg} {rs : List Reg} {v : Quad} {s t : State} (hv : v = valueAt .quad (s.reg spReg) s)
    (hr : r ≠ spReg) (hmem : r ∉ rs) (h : PoppedRegs rs (popOne r v s) t) : PoppedRegs (r :: rs) s t where
  values := by
    intro j q hq
    cases j with
    | zero =>
      obtain rfl : r = q := by simpa using hq
      have hkeep : t.reg r = (popOne r v s).reg r := h.after.only.regs r (by simp [hr, hmem])
      rw [hkeep, popOne_reg r v s hr, hv, Nat.mul_zero,
        show s.reg spReg + BitVec.ofNat 32 0 = s.reg spReg from BitVec.add_zero _]
    | succ j =>
      have hq : rs[j]? = some q := by simpa using hq
      rw [h.values j q hq, popOne_valueAt, popOne_sp, add_ofNat_add, show 4 + 4 * j = 4 * (j + 1) by omega]
  sp := by
    rw [h.sp, popOne_sp, add_ofNat_add, List.length_cons, show 4 + 4 * rs.length = 4 * (rs.length + 1) by omega]
  after := by
    have hafter := (popOne_after r v s).only.trans h.after.only
    refine ⟨hafter.mono fun q hq => ?_, h.after.flags, h.after.pc⟩
    simp only [List.mem_append, List.mem_cons, List.not_mem_nil, or_false] at hq ⊢
    obtain (hq | hq) | hq | hq := hq
    · exact .inl hq
    · exact .inr (.inl hq)
    · exact .inl hq
    · exact .inr (.inr hq)
  request := by
    have htrans := (popOne_request r v s hr).trans rfl h.request
    have hlist : ((List.range rs.length).map fun j => s.reg spReg + BitVec.ofNat 32 (4 * (j + 1 + 1)))
        = (List.range rs.length).map fun j => (popOne r v s).reg spReg + BitVec.ofNat 32 (4 * (j + 1)) :=
      List.map_congr_left fun j _ => by
        rw [popOne_sp, add_ofNat_add, show 4 + 4 * (j + 1) = 4 * (j + 1 + 1) by omega]
    rw [← hlist] at htrans
    rw [List.length_cons, List.range_succ_eq_map, List.map_cons, List.map_map]
    exact htrans

theorem popLoop_step {r : Reg} {rs : List Reg} {last : Option Quad} {v : Quad} {s : State}
    (hv : v = valueAt .quad (s.reg spReg) s) (hr : r ≠ spReg) (hu : Undisturbed s)
    (hread : Readable s.dev .quad (s.reg spReg)) : popLoop (r :: rs) last s = popLoop rs (some v) (popOne r v s) := by
  have hbus : busRead .quad s.sp s = .next (v, s) := hv ▸ busRead_of_readable hu hread
  have hsp : (s.writeReg r v).sp = s.reg spReg := reg_writeReg_other s v hr.symm
  rw [popLoop_cons, hbus, andThen_next]
  simp only [hsp]
  rfl

theorem popLoop_poppedRegs (rs : List Reg) {last : Option Quad} {s : State} (hnodup : rs.Nodup) (hsp : spReg ∉ rs)
    (hu : Undisturbed s) (hread : ∀ j < rs.length, Readable s.dev .quad (s.reg spReg + BitVec.ofNat 32 (4 * j))) :
    ∃ t, popLoop rs last s = .next (t, if rs = [] then last else
        some (valueAt .quad (s.reg spReg + BitVec.ofNat 32 (4 * (rs.length - 1))) s)) ∧ PoppedRegs rs s t := by
  induction rs generalizing s last with
  | nil => exact ⟨s, rfl, poppedRegs_nil s⟩
  | cons r rs ih =>
    obtain ⟨hmem, hnodup⟩ := List.nodup_cons.1 hnodup
    obtain ⟨hr, hsp⟩ := List.ne_and_not_mem_of_not_mem_cons hsp
    have h0 : s.reg spReg + BitVec.ofNat 32 (4 * 0) = s.reg spReg := BitVec.add_zero _
    have hfirst : Readable s.dev .quad (s.reg spReg) := h0 ▸ hread 0 (by simp)
    obtain ⟨v, hv⟩ : ∃ v : Quad, v = valueAt .quad (s.reg spReg) s := ⟨_, rfl⟩
    obtain ⟨t, ht, h⟩ := ih (last := some v) (s := popOne r v s) hnodup hsp hu fun j hj => by
      have := hread (j + 1) (by simpa using hj)
      rwa [show 4 * (j + 1) = 4 + 4 * j by omega, ← add_ofNat_add, ← popOne_sp r v s] at this
    refine ⟨t, ?_, h.cons hv hr.symm hmem⟩
    rw [popLoop_step hv hr.symm hu hfirst, ht, if_neg (List.cons_ne_nil r rs), popOne_valueAt, popOne_sp, add_ofNat_add]
    cases rs with
    | nil => rw [if_pos rfl, List.length_singleton, Nat.sub_self, h0, hv]
    | cons q qs =>
      rw [if_neg (List.cons_ne_nil q qs)]
      simp only [List.length_cons]
      rw [show 4 + 4 * (qs.length + 1 - 1) = 4 * (qs.length + 1 + 1 - 1) by omega]

theorem poppedRegs_nodup (high : Bool) (mask : BitVec 8) : (poppedRegs high mask).Nodup := by
  rw [← popMask_eq]
  refine List.pairwise_map.2 ((List.nodup_range.filter _).imp_of_mem fun {i j} hi hj hne h => hne ?_)
  have hi := List.mem_range.1 (List.mem_filter.1 hi).1
  have hj := List.mem_range.1 (List.mem_filter.1 hj).1
  have h := congrArg BitVec.toNat h
  simp only [BitVec.toNat_ofNat] at h
  cases high <;> simp only [if_true, Bool.false_eq_true, if_false] at h <;> omega

theorem popMultiple_overlap {rs : List Reg} (h : spReg ∈ rs) (s : State) :
    popMultiple rs s = .refused .pointerOverlap := by
  unfold popMultiple
  rw [if_pos (List.contains_iff_mem.2 h)]

theorem popMultiple_nil (s : State) : popMultiple [] s = .next s := rfl

/-- B of the last value popped (R374). -/
theorem popMultiple_of_popLoop {rs : List Reg} {v : Quad} {s t : State} (hsp : spReg ∉ rs)
    (h : popLoop rs none s = .next (t, some v)) : popMultiple rs s = .next (t.setFlags (blankPatch (blank1 v))) := by
  unfold popMultiple
  rw [if_neg fun hc => hsp (List.contains_iff_mem.1 hc), h]
  rfl

/-- Settles O47: the registers popped, and then B from the last value, if there is one. -/
theorem popOfMany : Obligations.PopOfMany := by
  unfold Obligations.PopOfMany
  intro high mask s
  have hnodup := poppedRegs_nodup high mask
  rw [exec_popm]
  generalize poppedRegs high mask = rs at hnodup
  refine ⟨fun hsp hu hread => ?_, fun hsp => popMultiple_overlap hsp s⟩
  by_cases hnil : rs = []
  · subst hnil
    obtain ⟨hvalues, hreg, hafter, hreq⟩ := poppedRegs_nil s
    exact ⟨s, popMultiple_nil s, hvalues, hreg, hafter, hreq⟩
  obtain ⟨t, ht, h⟩ := popLoop_poppedRegs rs (last := none) hnodup hsp hu hread
  rw [if_neg hnil] at ht
  simp only [if_neg hnil]
  refine ⟨_, popMultiple_of_popLoop hsp ht, fun j r hj => (setFlags_reg ..).trans (h.values j r hj),
    (setFlags_reg ..).trans h.sp, ⟨(h.after.only.trans (onlyRegs_setFlags t _)).mono fun q hq => by simpa using hq, ?_, ?_⟩, ?_⟩
  · have hflags := patchGives_blank s (valueAt .quad (s.reg spReg + BitVec.ofNat 32 (4 * (rs.length - 1))) s) t
      h.after.only.latches.noflags
    rw [h.after.flags] at hflags
    exact hflags
  · exact (setFlags_pc ..).trans h.after.pc
  · exact (setFlags_spovReq ..).trans h.request

/-! ### LINK and UNLINK -/

theorem decodeRow_link (imm : BitVec 8) (w1 w2 : Word) : decodeRow (0x08#8 ++ imm) w1 w2 = some (.link imm) := by
  simp [decodeRow, decode0]

theorem fpReg_ne_spReg : fpReg ≠ spReg := by decide

/-- s with SP written, its store apart: what a push leaves of the registers and of the request. -/
theorem busPush_stored {z : Size} {s : State} (v : BitVec (Size.bits z)) (hu : Undisturbed s) (hm : Memory.wf s.mem)
    (hw : Writable s.dev z (s.reg spReg - sizeQuad z)) :
    ∃ u, Stored z (s.reg spReg - sizeQuad z) v s u ∧ busPush z v s = .next { u with
      regs := (s.writeReg spReg (s.reg spReg - sizeQuad z)).regs
      spovReq := (s.writeReg spReg (s.reg spReg - sizeQuad z)).spovReq } :=
  ⟨_, stored_putValue v hm hw, (busPush_eq_next hu hm).2 ⟨hw, (putValue_writeReg z _ v s spReg _).symm⟩⟩

theorem exec_link {imm : BitVec 8} {a : Quad} {s u : State} (h : busPush .quad (s.reg fpReg) s = .next u)
    (hsp : u.sp = a) :
    exec (.link imm) s = .next ((u.writeReg fpReg a).writeReg spReg (a - BitVec.ofNat 32 imm.toNat)) := by
  subst hsp
  refine linkFrame_eq_next.2 ⟨u, h, ?_⟩
  have hsp : (u.writeReg fpReg u.sp).sp = u.sp := reg_writeReg_other u u.sp fpReg_ne_spReg.symm
  rw [hsp, BitVec.ofNat_toNat]

/-- What LINK does to the registers and the request, after its push. -/
theorem link_registers (s u : State) (a b : Quad) :
    let w : State := { u with regs := (s.writeReg spReg a).regs, spovReq := (s.writeReg spReg a).spovReq }
    let t := (w.writeReg fpReg a).writeReg spReg b
    w.sp = a ∧ t.reg fpReg = a ∧ t.reg spReg = b ∧ RegsSameBut [fpReg, spReg] s t
      ∧ t.spovReq = (s.spovReq || decide (a < s.spov) || decide (b < u.spov)) := by
  refine ⟨sp_writeReg s a, ?_, reg_writeReg_same .., fun q hq => ?_, ?_⟩
  · rw [reg_writeReg_other _ _ fpReg_ne_spReg, reg_writeReg_same]
  · obtain ⟨hfp, hsp⟩ := List.ne_and_not_mem_of_not_mem_cons hq
    have hsp := List.ne_of_not_mem_cons hsp
    rw [reg_writeReg_other _ _ hsp, reg_writeReg_other _ _ hfp]
    exact reg_writeReg_other s a hsp
  · simp only [writeReg_spovReq, writeReg_spov, beq_self_eq_true, Bool.true_and, beq_false_of_ne fpReg_ne_spReg,
      Bool.false_and, Bool.or_false]
    rfl

/-- LINK stores R14, and writes R14 and R15: the store does not look at registers. -/
theorem link_result {imm : BitVec 8} {s : State} (hu : Undisturbed s) (hm : Memory.wf s.mem)
    (hw : Writable s.dev .quad (s.reg spReg - 4#32)) :
    ∃ u t, exec (.link imm) s = .next t ∧ Stored .quad (s.reg spReg - 4#32) (s.reg 14#4) s u
      ∧ t.reg 14#4 = s.reg spReg - 4#32 ∧ t.reg spReg = s.reg spReg - 4#32 - BitVec.ofNat 32 imm.toNat
      ∧ RegsSameBut [14#4, spReg] s t ∧ t = { u with regs := t.regs, spovReq := t.spovReq }
      ∧ t.spovReq = (s.spovReq || decide (s.reg spReg - 4#32 < s.spov)
          || decide (s.reg spReg - 4#32 - BitVec.ofNat 32 imm.toNat < u.spov)) := by
  obtain ⟨u, hst, hpush⟩ := busPush_stored (z := .quad) (s.reg fpReg) hu hm hw
  obtain ⟨hsp, hfp, hregs⟩ :=
    link_registers s u (s.reg spReg - 4#32) (s.reg spReg - 4#32 - BitVec.ofNat 32 imm.toNat)
  obtain ⟨hsp', hsame, hreq⟩ := hregs
  exact ⟨u, _, exec_link hpush hsp, hst, hfp, hsp', hsame, rfl, hreq⟩

/-- The registers of UNLINK: SP from R14, R14 from the quad v there, and SP above it. -/
def unlinked (v : Quad) (s : State) : State :=
  ((s.writeReg spReg (s.reg fpReg)).writeReg fpReg v).writeReg spReg (s.reg fpReg + 4#32)

theorem exec_unlink {v : Quad} {s : State} (hv : v = valueAt .quad (s.reg fpReg) s) (hu : Undisturbed s)
    (hr : Readable s.dev .quad (s.reg fpReg)) : exec .unlink s = .next (unlinked v s) := by
  have hsp : (s.writeReg spReg (s.reg fpReg)).sp = s.reg fpReg := sp_writeReg s _
  have hbus : busRead .quad (s.writeReg spReg (s.reg fpReg)).sp (s.writeReg spReg (s.reg fpReg))
      = .next (v, s.writeReg spReg (s.reg fpReg)) := by
    rw [hsp, busRead_of_readable (hu.writeReg _ _) hr, valueAt_writeReg, hv]
  have hsp' : ((s.writeReg spReg (s.reg fpReg)).writeReg fpReg v).sp = s.reg fpReg :=
    (reg_writeReg_other _ v fpReg_ne_spReg.symm).trans hsp
  show unlinkFrame s = _
  unfold unlinkFrame
  simp only [hbus, andThen_next, hsp']
  rfl

theorem unlink_result {s : State} (hu : Undisturbed s) (hr : Readable s.dev .quad (s.reg fpReg)) :
    ∃ t, exec .unlink s = .next t ∧ t.reg 14#4 = valueAt .quad (s.reg 14#4) s
      ∧ t.reg spReg = s.reg 14#4 + 4#32 ∧ After [14#4, spReg] s.flags s t
      ∧ Requested [s.reg 14#4, s.reg 14#4 + 4#32] s t := by
  obtain ⟨v, hv⟩ : ∃ v : Quad, v = valueAt .quad (s.reg fpReg) s := ⟨_, rfl⟩
  refine ⟨_, exec_unlink hv hu hr, ?_, reg_writeReg_same .., ⟨?_, rfl, rfl⟩, ?_⟩
  · refine Eq.trans ?_ hv
    exact (reg_writeReg_other _ _ fpReg_ne_spReg).trans (reg_writeReg_same ..)
  · refine ((onlyRegs_writeReg s spReg _).trans ((onlyRegs_writeReg _ fpReg v).trans (onlyRegs_writeReg _ spReg _))).mono
      fun q hq => ?_
    simp only [List.mem_append, List.mem_cons, List.not_mem_nil, or_false] at hq ⊢
    exact hq.elim .inr id
  · have hfirst := requested_writeSp s (s.reg fpReg)
    have hfp : Requested [] (s.writeReg spReg (s.reg fpReg)) ((s.writeReg spReg (s.reg fpReg)).writeReg fpReg v) :=
      requested_nil (spovReq_writeReg_other fpReg_ne_spReg _ _)
    exact (hfirst.trans rfl hfp).trans rfl (requested_writeSp _ _)

/-- Settles O48: each by the writes of SP it makes, and the two words by their rows. -/
theorem linkAndUnlink : Obligations.LinkAndUnlink := by
  unfold Obligations.LinkAndUnlink
  exact fun imm s hu => ⟨fun hm hw => link_result hu hm hw, fun hr => unlink_result hu hr,
    decodesTo_word (Laws.EncodeLength.link imm) rfl (decodeRow_link imm _ _),
    decodesTo_word Laws.EncodeLength.unlink rfl rfl⟩

/-! ### CALL -/

/-- The register of CALL (Rs) is read after SP is lowered (D24). -/
theorem Pushed.reg {z : Size} {v : BitVec (Size.bits z)} {s t : State} (h : Pushed z v s t) (r : Reg) :
    t.reg r = if r = spReg then s.reg spReg - sizeQuad z else s.reg r := by
  obtain ⟨hsp, u, hst, hregs, -⟩ := h
  by_cases hr : r = spReg
  · rw [if_pos hr, hr, hsp]
  · rw [if_neg hr, hregs r (by simpa using hr), hst.regs r List.not_mem_nil]

/-- Settles O50: each is the push of the PC and a jump. -/
theorem calls : Obligations.Calls := by
  unfold Obligations.Calls
  intro rs r12 r24 imm s hu hm hw
  obtain ⟨u, hpush, hpushed⟩ := busPush_pushed (z := .quad) s.pc hu hm hw
  have jump : ∀ target : State → Quad,
      (andThen (busPush .quad s.pc s) fun t => .next (jumpTo (target t) t)) = .next { u with pc := target u, dirty := [] } := by
    intro target
    rw [hpush]
    rfl
  refine ⟨u, [], [], [], [], hpushed, ?_, ?_, ?_, ?_⟩
  · exact (jump fun _ => relTarget s.pc r12).trans (by rw [relTarget_eq_ofInt])
  · exact (jump fun _ => relTarget s.pc r24).trans (by rw [relTarget_eq_ofInt])
  · exact (jump fun t => evenAddress (t.reg rs)).trans (by rw [evenAddress_eq_ofNat, hpushed.reg]; rfl)
  · exact (jump fun _ => evenAddress imm).trans (by rw [evenAddress_eq_ofNat])

end Sys2Proof.Claims

/-! Entries: exceptions, traps and interrupts. An entry pushes its frame in two or in six pieces; `Framing` follows the frame
downwards, whatever the pieces are. -/

namespace Sys2Proof.Claims

open Sys2Proof.Machine

/-! ### FLAGS in an entry -/

theorem setCirqe_eq (b : Bool) (f : Byte) :
    setCirqe b f = flagsByte (flagC f) (flagZ f) (flagS f) (flagV f) (flagB f) (flagF1 f) b (flagIrqe f) := by
  apply byte_eq_of_bits
  · exact (getLsbD_putBit 1 7 b f (by decide) (by decide)).trans (flagC_flagsByte ..).symm
  · exact (getLsbD_putBit 1 6 b f (by decide) (by decide)).trans (flagZ_flagsByte ..).symm
  · exact (getLsbD_putBit 1 5 b f (by decide) (by decide)).trans (flagS_flagsByte ..).symm
  · exact (getLsbD_putBit 1 4 b f (by decide) (by decide)).trans (flagV_flagsByte ..).symm
  · exact (getLsbD_putBit 1 3 b f (by decide) (by decide)).trans (flagB_flagsByte ..).symm
  · exact (getLsbD_putBit 1 2 b f (by decide) (by decide)).trans (flagF1_flagsByte ..).symm
  · exact (getLsbD_putBit 1 1 b f (by decide) (by decide)).trans (flagCirqe_flagsByte ..).symm
  · exact (getLsbD_putBit 1 0 b f (by decide) (by decide)).trans (flagIrqe_flagsByte ..).symm

theorem setIrqe_eq (b : Bool) (f : Byte) :
    setIrqe b f = flagsByte (flagC f) (flagZ f) (flagS f) (flagV f) (flagB f) (flagF1 f) (flagCirqe f) b := by
  apply byte_eq_of_bits
  · exact (getLsbD_putBit 0 7 b f (by decide) (by decide)).trans (flagC_flagsByte ..).symm
  · exact (getLsbD_putBit 0 6 b f (by decide) (by decide)).trans (flagZ_flagsByte ..).symm
  · exact (getLsbD_putBit 0 5 b f (by decide) (by decide)).trans (flagS_flagsByte ..).symm
  · exact (getLsbD_putBit 0 4 b f (by decide) (by decide)).trans (flagV_flagsByte ..).symm
  · exact (getLsbD_putBit 0 3 b f (by decide) (by decide)).trans (flagB_flagsByte ..).symm
  · exact (getLsbD_putBit 0 2 b f (by decide) (by decide)).trans (flagF1_flagsByte ..).symm
  · exact (getLsbD_putBit 0 1 b f (by decide) (by decide)).trans (flagCirqe_flagsByte ..).symm
  · exact (getLsbD_putBit 0 0 b f (by decide) (by decide)).trans (flagIrqe_flagsByte ..).symm

/-- CIRQE copied from IRQE, and IRQE cleared where the device says so (R520, R521). -/
theorem exceptionFlags_eq {s t : State} (hflags : t.flags = setCirqe (flagIrqe s.flags) s.flags) (hdev : t.dev = s.dev) :
    (excIrqe t).flags = exceptionFlags s := by
  unfold excIrqe exceptionFlags
  rw [hdev]
  cases s.dev.sysexcClearsIrqe
  · simp [hflags, setCirqe_eq]
  · simp [hflags, setCirqe_eq, setIrqe_eq]

theorem interruptFlags_eq (s : State) : setIrqe false (setCirqe (flagIrqe s.flags) s.flags) = interruptFlags s := by
  simp [setCirqe_eq, setIrqe_eq, interruptFlags]

/-! ### The frame -/

/-- t is in an entry of s that has stored its frame, byte k of which is `frame k`, from byte n up: SP stands at byte n, these
values went to it, and nothing else has changed but FLAGS and SYSEXCP. -/
structure Framing (frame : Nat → Byte) (n : Nat) (written : List Quad) (s t : State) : Prop where
  stored : ∀ k, n ≤ k → k < 6 → byteAt (s.reg spReg - 6#32 + BitVec.ofNat 32 k) t = frame k
  bytes : ∀ a, Outside s.dev (s.reg spReg - 6#32) 6 a → locate s.dev a ≠ .flags →
    (∀ l i, locate s.dev a ≠ .sysexcp l i) → byteAt a t = byteAt a s
  sp : t.reg spReg = s.reg spReg - 6#32 + BitVec.ofNat 32 n
  regs : RegsSameBut [spReg] s t
  pc : t.pc = s.pc
  pcov : t.pcov = s.pcov
  spov : t.spov = s.spov
  dmabw : t.dmabw = s.dmabw
  latches : SameLatches s t
  machine : SameMachine s t
  request : Requested written s t
  wf : Memory.wf t.mem

theorem sp_eq_frame (s : State) : s.reg spReg = s.reg spReg - 6#32 + BitVec.ofNat 32 6 := (BitVec.sub_add_cancel _ _).symm

theorem framing_refl (frame : Nat → Byte) {s : State} (hm : Memory.wf s.mem) : Framing frame 6 [] s s where
  stored _ h h' := absurd h' (Nat.not_lt.2 h)
  bytes _ _ _ _ := rfl
  sp := sp_eq_frame s
  regs _ _ := rfl
  pc := rfl
  pcov := rfl
  spov := rfl
  dmabw := rfl
  latches := ⟨rfl, rfl⟩
  machine := ⟨rfl, rfl, rfl, rfl, rfl, rfl, rfl, rfl⟩
  request := requested_nil rfl
  wf := hm

section
variable {frame : Nat → Byte} {n : Nat} {written : List Quad} {s t : State}

/-- A byte of RAM or external memory, or of non-volatile memory, is no control register. -/
theorem byteAt_withFlagsSysexcp {a : Quad} (f : Byte) (x : SysExcp) (t : State) (hf : locate t.dev a ≠ .flags)
    (hx : ∀ l i, locate t.dev a ≠ .sysexcp l i) : byteAt a { t with flags := f, sysexcp := x } = byteAt a t := by
  unfold byteAt
  cases hl : locate t.dev a
  case flags => exact absurd hl hf
  case sysexcp l i => exact absurd hl (hx l i)
  all_goals rfl

/-- FLAGS and SYSEXCP are not in the frame. -/
theorem Framing.withFlagsSysexcp (h : Framing frame n written s t) (hp : PlainBytes s.dev (s.reg spReg - 6#32) 6) (f : Byte)
    (x : SysExcp) : Framing frame n written s { t with flags := f, sysexcp := x } :=
  { h with
    stored := fun k hk hk6 => by
      obtain ⟨p, hloc⟩ := hp k hk6
      rw [← h.machine.dev] at hloc
      exact (byteAt_withFlagsSysexcp f x t (by simp [hloc]) (by simp [hloc])).trans (h.stored k hk hk6)
    bytes := fun a ha hf hx => by
      refine (byteAt_withFlagsSysexcp f x t ?_ ?_).trans (h.bytes a ha hf hx)
      · rw [h.machine.dev]; exact hf
      · rw [h.machine.dev]; exact hx
    regs := h.regs
    latches := ⟨h.latches.ext, h.latches.noflags⟩
    machine := { h.machine with }
    request := h.request }

/-- One piece pushed: the frame is stored down to it. -/
theorem Framing.pushed {z : Size} {m : Nat} {v : BitVec (Size.bits z)} {u : State} (h : Framing frame n written s t)
    (hmn : m + Size.bytes z = n) (hn : n ≤ 6) (hv : ∀ k < Size.bytes z, beByte z v k = frame (m + k))
    (hpush : PlainPushed z (s.reg spReg - 6#32 + BitVec.ofNat 32 m) v t u) :
    Framing frame m (written ++ [s.reg spReg - 6#32 + BitVec.ofNat 32 m]) s u where
  stored k hk hk6 := by
    by_cases hkn : n ≤ k
    · have hout := outside_offset t.dev (s.reg spReg - 6#32) (i := m) (n := Size.bytes z) (j := k) (by omega) (by omega)
        (by omega)
      exact (hpush.bytes _ hout).trans (h.stored k hkn hk6)
    · have hbyte := beByte_valueAt (z := z) (s.reg spReg - 6#32 + BitVec.ofNat 32 m) u (k := k - m) (by omega)
      rw [hpush.value, hv _ (by omega), add_ofNat_add, Nat.add_sub_cancel' hk] at hbyte
      exact hbyte.symm
  bytes a ha hf hx := by
    refine (hpush.bytes a ?_).trans (h.bytes a ha hf hx)
    exact Outside.offset (d := t.dev) (h.machine.dev.symm ▸ ha) (by omega)
  sp := hpush.sp
  regs := h.regs.trans hpush.regs
  pc := hpush.pc.trans h.pc
  pcov := hpush.control.pcov.trans h.pcov
  spov := hpush.control.spov.trans h.spov
  dmabw := hpush.control.dmabw.trans h.dmabw
  latches := h.latches.trans hpush.latches
  machine := h.machine.trans hpush.machine
  request := h.request.trans h.spov hpush.request
  wf := hpush.wf

/-- A piece can be pushed into RAM or external memory. -/
theorem Framing.push {z : Size} {m : Nat} (v : BitVec (Size.bits z)) (h : Framing frame n written s t)
    (hp : PlainBytes s.dev (s.reg spReg - 6#32) 6) (hmn : m + Size.bytes z = n) (hn : n ≤ 6)
    (hv : ∀ k < Size.bytes z, beByte z v k = frame (m + k)) :
    ∃ u, Machine.push z v t = .next u ∧ Framing frame m (written ++ [s.reg spReg - 6#32 + BitVec.ofNat 32 m]) s u
      ∧ u.flags = t.flags ∧ u.sysexcp = t.sysexcp := by
  have haddr : t.sp - sizeQuad z = s.reg spReg - 6#32 + BitVec.ofNat 32 m := by
    have hm : m = n - Size.bytes z := by omega
    rw [hm, ← add_ofNat_sub _ (by omega), ← h.sp]
    rfl
  have hplain : PlainBytes t.dev (s.reg spReg - 6#32 + BitVec.ofNat 32 m) (Size.bytes z) := by
    rw [h.machine.dev]
    exact hp.offset (by omega)
  have hpush := plainPushed_putValue v h.wf hplain
  refine ⟨_, push_eq_next.2 ⟨?_, rfl⟩, ?_⟩
  · rw [haddr]
    exact hplain.writable
  · rw [haddr]
    exact ⟨h.pushed hmn hn hv hpush, hpush.flags, hpush.control.sysexcp⟩

end

/-- The bytes of a frame: the PC value, the pad byte and FLAGS (R511). -/
def frameByte (pc : Quad) (f : Byte) (k : Nat) : Byte := if k < 4 then quadByte pc k else if k = 4 then 0x00#8 else f

/-- What an entry leaves when its frame is stored and it has jumped. -/
theorem Framing.entered {pc target : Quad} {f : Byte} {written : List Quad} {s t : State}
    (h : Framing (frameByte pc f) 0 written s t) (hf : f = s.flags) : Entered s (jumpTo target t) pc target where
  frame := by
    subst hf
    refine ⟨valueAt_quad_eq fun i hi => ?_, ?_, ?_⟩
    · rw [← if_pos (c := i < 4) hi (t := quadByte pc i)]
      exact h.stored i (Nat.zero_le i) (by omega)
    · exact h.stored 4 (by decide) (by decide)
    · exact h.stored 5 (by decide) (by decide)
  sp := h.sp.trans (BitVec.add_zero _)
  regs := h.regs
  pc := rfl
  bytes := h.bytes
  pcov := h.pcov
  spov := h.spov
  dmabw := h.dmabw

/-! ### The pieces of a frame -/

section
variable {pc : Quad} {f : Byte} {written : List Quad} {s t : State}

theorem Framing.pushFlags (h : Framing (frameByte pc f) 6 written s t) (hp : PlainBytes s.dev (s.reg spReg - 6#32) 6) :
    ∃ u, Machine.push .word (flagsWord f) t = .next u
      ∧ Framing (frameByte pc f) 4 (written ++ [s.reg spReg - 6#32 + BitVec.ofNat 32 4]) s u
      ∧ u.flags = t.flags ∧ u.sysexcp = t.sysexcp := by
  refine h.push (z := .word) (flagsWord f) hp rfl (by decide) fun k hk => ?_
  obtain ⟨hb0, hb1⟩ := beByte_append_word 0x00#8 f
  have hk : k = 0 ∨ k = 1 := by simp only [Size.bytes] at hk; omega
  obtain rfl | rfl := hk
  · exact hb0
  · exact hb1

theorem Framing.pushPc (h : Framing (frameByte pc f) 4 written s t) (hp : PlainBytes s.dev (s.reg spReg - 6#32) 6) :
    ∃ u, Machine.push .quad pc t = .next u
      ∧ Framing (frameByte pc f) 0 (written ++ [s.reg spReg - 6#32 + BitVec.ofNat 32 0]) s u
      ∧ u.flags = t.flags ∧ u.sysexcp = t.sysexcp := by
  refine h.push (z := .quad) pc hp rfl (by decide) fun k hk => ?_
  rw [frameByte, Nat.zero_add, if_pos (show k < 4 from hk)]
  rfl

theorem Framing.pushByte {frame : Nat → Byte} (m : Nat) (h : Framing frame (m + 1) written s t) (hm : m < 6)
    (hp : PlainBytes s.dev (s.reg spReg - 6#32) 6) :
    ∃ u, Machine.push .byte (frame m) t = .next u
      ∧ Framing frame m (written ++ [s.reg spReg - 6#32 + BitVec.ofNat 32 m]) s u
      ∧ u.flags = t.flags ∧ u.sysexcp = t.sysexcp := by
  refine h.push (z := .byte) (frame m) hp rfl hm fun k hk => ?_
  obtain rfl : k = 0 := Nat.lt_one_iff.1 hk
  exact beByte_byte _

/-- The vector is not in the frame, so it still holds the handler's address (R501). -/
theorem Framing.jumpThrough {frame : Nat → Byte} {v target : Quad} (h : Framing frame 0 written s t)
    (he : EntryReady s v target) : Machine.jumpThrough v t = .next (jumpTo target t) := by
  have hloc : ∀ k < 4, readStop s.dev (v + BitVec.ofNat 32 k) = none ∧ locate s.dev (v + BitVec.ofNat 32 k) ≠ .flags
      ∧ ∀ l i, locate s.dev (v + BitVec.ofNat 32 k) ≠ .sysexcp l i := by
    intro k hk
    obtain ⟨p, hp | hp⟩ := he.inMemory k hk <;> simp [readStop, hp]
  have hvalue : valueAt .quad v t = target := by
    refine (valueAt_congr fun k hk => ?_).trans he.value
    obtain ⟨-, hf, hx⟩ := hloc k hk
    exact h.bytes _ (he.apart k hk) hf hx
  refine jumpThrough_eq_next.2 ⟨?_, ?_, by rw [hvalue]⟩
  · rw [h.machine.dev]
    exact readable_iff.2 fun k hk => (hloc k hk).1
  · rw [hvalue]
    exact he.even

end

/-! ### Exceptions -/

theorem frame_slot (s : State) {j : Nat} (hj : j ≤ 6) :
    s.reg spReg - BitVec.ofNat 32 j = s.reg spReg - 6#32 + BitVec.ofNat 32 (6 - j) := by
  conv => lhs; rw [sp_eq_frame s]
  exact add_ofNat_sub _ hj

theorem pushesOfException_eq (s : State) :
    pushesOfException s = [s.reg spReg - 6#32 + BitVec.ofNat 32 4, s.reg spReg - 6#32 + BitVec.ofNat 32 0] :=
  congr (congrArg List.cons (frame_slot s (j := 2) (by decide)))
    (congrArg (fun x => [x]) (frame_slot s (j := 6) (by decide)))

theorem excIrqe_eq_withFlags (s : State) : excIrqe s = { s with flags := (excIrqe s).flags } := by
  unfold excIrqe
  split <;> rfl

/-- An exception that can enter does: its frame, its SYSEXCP bit, and the handler (R520). -/
theorem takeException_taken {e : SysExc} {p target : Quad} {s : State} (he : EntryReady s sysExcVector target) :
    ∃ t, takeException e p s = .next t ∧ ExceptionTaken e s t p target ∧ SameLatches s t
      ∧ Requested (pushesOfException s) s t := by
  have h0 := (framing_refl (frameByte p s.flags) he.memory).withFlagsSysexcp he.frame s.flags (setExcBit e s.sysexcp)
  obtain ⟨s1, hs1, h1, hf1, hx1⟩ := h0.pushFlags he.frame
  obtain ⟨s2, hs2, h2, hf2, hx2⟩ :=
    (h1.withFlagsSysexcp he.frame (setCirqe (flagIrqe s1.flags) s1.flags) s1.sysexcp).pushPc he.frame
  have h3 := h2.withFlagsSysexcp he.frame (excIrqe s2).flags s2.sysexcp
  have hexc : excIrqe s2 = { s2 with flags := (excIrqe s2).flags, sysexcp := s2.sysexcp } := excIrqe_eq_withFlags s2
  have hjump := h3.jumpThrough he
  rw [← hexc] at hjump
  refine ⟨_, takeException_eq_next.2 ⟨s1, s2, hs1, hs2, hjump⟩, ⟨?_, ?_, ?_, ?_⟩, ?_, ?_⟩
  · rw [hexc]
    exact h3.entered rfl
  · refine exceptionFlags_eq (hf2.trans ?_) h2.machine.dev
    exact congrArg (fun f => setCirqe (flagIrqe f) f) hf1
  · rw [hexc]
    exact hx2.trans hx1
  · rw [hexc]
    exact { h3.machine with }
  · rw [hexc]
    exact ⟨h3.latches.ext, h3.latches.noflags⟩
  · rw [hexc, pushesOfException_eq]
    exact h3.request

/-- What an entry is of looks at neither the PC nor the latches. -/
theorem ExceptionTaken.of_latches {e : SysExc} {s t : State} {p target q : Quad} {x y : Bool}
    (h : ExceptionTaken e { s with pc := q, extPending := x, noflagsPending := y } t p target) :
    ExceptionTaken e s t p target := by
  obtain ⟨⟨hframe, hsp, hregs, hpc, hbytes, hpcov, hspov, hdmabw⟩, hflags, hsysexcp, hmachine⟩ := h
  exact ⟨⟨hframe, hsp, hregs, hpc, hbytes, hpcov, hspov, hdmabw⟩, hflags, hsysexcp, { hmachine with }⟩

theorem EntryReady.withLatches {s : State} {v target : Quad} (h : EntryReady s v target) (q : Quad) (x y : Bool) :
    EntryReady { s with pc := q, extPending := x, noflagsPending := y } v target := by
  obtain ⟨hmemory, hframe, hinMemory, hapart, hvalue, heven⟩ := h
  exact ⟨hmemory, hframe, hinMemory, hapart, hvalue, heven⟩

/-- An exception of a state whose latches are cleared, with its PC anywhere. -/
theorem takeException_cleared {e : SysExc} {p target : Quad} (q : Quad) {s : State} (he : EntryReady s sysExcVector target) :
    ∃ t, takeException e p (clearLatches { s with pc := q }) = .next t ∧ ExceptionTaken e s t p target
      ∧ t.extPending = false ∧ t.noflagsPending = false ∧ Requested (pushesOfException s) s t := by
  obtain ⟨t, ht, htaken, hlatches, hreq⟩ := takeException_taken (e := e) (p := p) (he.withLatches q false false)
  exact ⟨t, ht, htaken.of_latches, hlatches.ext, hlatches.noflags, hreq⟩

/-- A divide exception is taken where its bit is clear, and nothing happens where it is set (D25). -/
theorem raiseOnce_result {e : SysExc} {target : Quad} {s : State} :
    (excBit e s.sysexcp = false → EntryReady s sysExcVector target →
      ∃ t, raiseOnce e s = .next t ∧ ExceptionTaken e s t s.pc target ∧ Requested (pushesOfException s) s t) ∧
    (excBit e s.sysexcp = true → raiseOnce e s = .next s) := by
  refine ⟨fun hbit he => ?_, raiseOnce_set⟩
  obtain ⟨t, ht, htaken, -, hreq⟩ := takeException_taken (e := e) (p := s.pc) he
  exact ⟨t, (raiseOnce_clear hbit).trans ht, htaken, hreq⟩

/-! ### Traps -/

theorem trapVector_eq (vec : BitVec 8) : trapVector vec = BitVec.ofNat 32 (4 * vec.toNat) := by
  rw [trapVector, BitVec.ofNat_mul, BitVec.ofNat_toNat]

theorem softwareTrap_result {vec : BitVec 8} {target : Quad} {s : State} (hu : Undisturbed s)
    (he : EntryReady s (BitVec.ofNat 32 (4 * vec.toNat)) target) :
    ∃ t, exec (.trap vec) s = .next t ∧ Entered s t s.pc target ∧ t.flags = s.flags ∧ t.sysexcp = s.sysexcp
      ∧ SameLatches s t ∧ SameMachine s t ∧ Requested (pushesOfException s) s t := by
  obtain ⟨s1, hs1, h1, hf1, hx1⟩ := (framing_refl (frameByte s.pc s.flags) he.memory).pushFlags he.frame
  obtain ⟨s2, hs2, h2, hf2, hx2⟩ := h1.pushPc he.frame
  have hu1 : Undisturbed s1 := hu.of_eq h1.machine.atmCount h1.machine.dmaPlan
  have hu2 : Undisturbed s2 := hu.of_eq h2.machine.atmCount h2.machine.dmaPlan
  refine ⟨jumpTo target s2, ?_, h2.entered rfl, hf2.trans hf1, hx2.trans hx1, ⟨h2.latches.ext, h2.latches.noflags⟩,
    { h2.machine with }, ?_⟩
  · show softwareTrap vec s = _
    unfold softwareTrap
    have hb1 : busPush .word (flagsWord s.flags) s = .next s1 := (busPush_undisturbed hu he.memory ..).trans hs1
    have hb2 : busPush .quad s1.pc s1 = .next s2 := by
      rw [h1.pc]
      exact (busPush_undisturbed hu1 h1.wf .quad s.pc).trans hs2
    rw [hb1, andThen_next, hb2, andThen_next, busJump_undisturbed hu2, trapVector_eq]
    exact h2.jumpThrough he
  · rw [pushesOfException_eq]
    exact h2.request

/-- Settles O53: the frame in two pushes, and a jump through a vector away from it. -/
theorem softwareTrap : Obligations.SoftwareTrap := by
  unfold Obligations.SoftwareTrap
  exact fun vec target s hu he => ⟨softwareTrap_result hu he,
    decodesTo_word (Laws.EncodeLength.trap vec) rfl (by simp [decodeRow, decodeF])⟩

/-! ### Interrupts -/

/-- What an accepted request leaves (R510). -/
structure InterruptTaken (s t : State) (target : Quad) : Prop where
  entered : Entered s t s.pc target
  flags : t.flags = interruptFlags s
  sysexcp : t.sysexcp = s.sysexcp
  latches : SameLatches s t
  machine : SameMachine { s with pending := s.pending.tail } t
  request : Requested (pushesOfInterrupt s) s t

theorem pushesOfInterrupt_eq (s : State) :
    pushesOfInterrupt s = [5, 4, 3, 2, 1, 0].map fun k => s.reg spReg - 6#32 + BitVec.ofNat 32 k := by
  calc
    pushesOfInterrupt s = [1, 2, 3, 4, 5, 6].map fun n => s.reg spReg - BitVec.ofNat 32 n := rfl
    _ = [1, 2, 3, 4, 5, 6].map fun n => s.reg spReg - 6#32 + BitVec.ofNat 32 (6 - n) :=
      List.map_congr_left fun n hn => frame_slot s (by simp only [List.mem_cons, List.not_mem_nil, or_false] at hn; omega)
    _ = [5, 4, 3, 2, 1, 0].map fun k => s.reg spReg - 6#32 + BitVec.ofNat 32 k := rfl

/-- A request whose entry can complete is entered: six bytes pushed, and CIRQE copied after the first three. -/
theorem interruptEntry_taken {q : IrqRequest} {target : Quad} {s : State} (he : EntryReady s q.vectorAddr target) :
    ∃ t, interruptEntry q s = .next t ∧ InterruptTaken s t target := by
  obtain ⟨s1, hs1, h1, hf1, hx1⟩ :=
    (framing_refl (frameByte s.pc s.flags) he.memory).pushByte 5 (by decide) he.frame
  obtain ⟨s2, hs2, h2, hf2, hx2⟩ := h1.pushByte 4 (by decide) he.frame
  obtain ⟨s3, hs3, h3, hf3, hx3⟩ := h2.pushByte 3 (by decide) he.frame
  obtain ⟨s4, hs4, h4, hf4, hx4⟩ :=
    (h3.withFlagsSysexcp he.frame (setCirqe (flagIrqe s3.flags) s3.flags) s3.sysexcp).pushByte 2 (by decide) he.frame
  obtain ⟨s5, hs5, h5, hf5, hx5⟩ := h4.pushByte 1 (by decide) he.frame
  obtain ⟨s6, hs6, h6, hf6, hx6⟩ := h5.pushByte 0 (by decide) he.frame
  have h7 := h6.withFlagsSysexcp he.frame (setIrqe false s6.flags) s6.sysexcp
  have hjump := h7.jumpThrough he
  have hentered := h7.entered (target := target) rfl
  refine ⟨_, interruptEntry_eq_next.2 ⟨s1, s2, s3, s4, s5, s6, _, hs1, hs2, hs3, hs4, hs5, hs6, hjump, rfl⟩, ?_⟩
  exact {
    entered := { hentered with }
    flags := by
      have hflags : s6.flags = setCirqe (flagIrqe s.flags) s.flags := by
        rw [hf6, hf5, hf4, hf3, hf2, hf1]
      exact (congrArg (setIrqe false) hflags).trans (interruptFlags_eq s)
    sysexcp := hx6.trans (hx5.trans (hx4.trans (hx3.trans (hx2.trans hx1))))
    latches := ⟨h7.latches.ext, h7.latches.noflags⟩
    machine := { h7.machine with pending := congrArg List.tail h7.machine.pending }
    request := by
      rw [pushesOfInterrupt_eq]
      exact h7.request }

end Sys2Proof.Claims

/-! The divides: a quotient and a remainder in two registers, or an exception. -/

namespace Sys2Proof.Claims

open Sys2Proof.Machine

/-! ### Quotient and remainder -/

/-- Of two different registers written, one at most is R15. -/
theorem requested_writeReg_writeReg {s : State} {r q : Reg} (h : r ≠ q) (v w : Quad) (p : FlagPatch) :
    Requested (writtenOnce [r, q] (((s.writeReg r v).writeReg q w).setFlags p)) s
      (((s.writeReg r v).writeReg q w).setFlags p) := by
  obtain ⟨hr, hq⟩ := reg_writeReg_writeReg (s := s) h v w p
  have hflags : (((s.writeReg r v).writeReg q w).setFlags p).spovReq = ((s.writeReg r v).writeReg q w).spovReq :=
    setFlags_spovReq _ p
  unfold writtenOnce
  by_cases hsr : r = spReg
  · subst hsr
    rw [if_pos List.mem_cons_self, hr]
    exact (hflags.trans (spovReq_writeReg_other h.symm _ w)).trans (requested_writeSp s v)
  · have hfirst : (s.writeReg r v).spovReq = s.spovReq := spovReq_writeReg_other hsr s v
    by_cases hsq : q = spReg
    · subst hsq
      rw [if_pos (List.mem_cons_of_mem _ List.mem_cons_self), hq]
      exact hflags.trans (((requested_nil hfirst).trans rfl (requested_writeSp (s.writeReg r v) w)))
    · rw [if_neg (by simp [Ne.symm hsr, Ne.symm hsq])]
      exact requested_nil ((hflags.trans (spovReq_writeReg_other hsq _ w)).trans hfirst)

/-- What a divide with a quotient leaves. -/
theorem putQuotient_result {rq rt : Reg} (h : rq ≠ rt) (q t : Quad) (v : Bool) (s : State) :
    (putQuotient rq q rt t v s).reg rq = q ∧ (putQuotient rq q rt t v s).reg rt = t
      ∧ After [rq, rt] (productFlags s q v) s (putQuotient rq q rt t v s)
      ∧ Requested (writtenOnce [rq, rt] (putQuotient rq q rt t v s)) s (putQuotient rq q rt t v s) := by
  obtain ⟨hq, ht⟩ := reg_writeReg_writeReg (s := s) h q t (productPatch q v)
  exact ⟨hq, ht, after_writeReg_writeReg_setFlags (setFlags_productPatch s q v), requested_writeReg_writeReg h q t _⟩

/-! ### UDIV -/

theorem divideUnsigned_quotient {rd rs : Reg} {s : State} (hext : s.extPending = false) (h : rd ≠ rs) (h0 : s.reg rs ≠ 0#32) :
    divideUnsigned rd rs s = .next (putQuotient rd (s.reg rd / s.reg rs) rs (s.reg rd % s.reg rs) false s) := by
  simp [divideUnsigned, hext, h, h0]

theorem divideUnsigned_zero {rd rs : Reg} {s : State} (hext : s.extPending = false) (h : rd ≠ rs) (h0 : s.reg rs = 0#32) :
    divideUnsigned rd rs s = raiseOnce .divideByZero s := by
  simp [divideUnsigned, hext, h, h0]

theorem toNat_pos_of_ne_zero {a : Quad} (h : a ≠ 0#32) : 0 < a.toNat :=
  Nat.pos_of_ne_zero fun h0 => h (BitVec.eq_of_toNat_eq h0)

/-- Settles O29: a quotient and a remainder by the division theorem, the Divide-by-Zero exception, or the refusal. -/
theorem unsignedDivision : Obligations.UnsignedDivision := by
  unfold Obligations.UnsignedDivision
  refine fun rd rs target s hext => ⟨fun h h0 => ?_, fun h h0 => ?_, fun h => ?_⟩
  · obtain ⟨hq, ht, hafter, hreq⟩ := putQuotient_result h (s.reg rd / s.reg rs) (s.reg rd % s.reg rs) false s
    refine ⟨_, divideUnsigned_quotient hext h h0, ?_, ?_, by rw [hq]; exact hafter, hreq⟩
    · rw [hq, ht, BitVec.toNat_udiv, BitVec.toNat_umod, Nat.mul_comm]
      exact (Nat.div_add_mod _ _).symm
    · rw [ht, BitVec.toNat_umod]
      exact Nat.mod_lt _ (toNat_pos_of_ne_zero h0)
  · have hexec : exec (.udiv rd rs) s = raiseOnce .divideByZero s := divideUnsigned_zero hext h h0
    rw [hexec]
    exact raiseOnce_result (e := .divideByZero)
  · show divideUnsigned rd rs s = _
    simp [divideUnsigned, hext, h]

/-! ### UDIV64 -/

theorem nextReg_ne (r : Reg) : r ≠ nextReg r := by
  unfold nextReg
  bv_omega

section
variable {rd rs : Reg} {s : State}

theorem divideUnsigned_long (hext : s.extPending = true) : divideUnsigned rd rs s = divide64 rd rs s := if_pos hext

theorem divide64_zero (hd : rs ≠ rd) (hlo : rs ≠ nextReg rd) (h0 : s.reg rs = 0#32) :
    divide64 rd rs s = raiseOnce .divideByZero s := by
  simp [divide64, hd, hlo, h0]

theorem divide64_overflow (hd : rs ≠ rd) (hlo : rs ≠ nextReg rd) (h0 : s.reg rs ≠ 0#32)
    (hbig : 2 ^ 32 ≤ ((s.reg rd ++ s.reg (nextReg rd)) / (s.reg rs).setWidth 64).toNat) :
    divide64 rd rs s = raiseOnce .divideOverflow s := by
  unfold divide64
  rw [if_neg (not_or.2 ⟨hd, hlo⟩), if_neg h0, if_pos hbig]

theorem divide64_quotient (hd : rs ≠ rd) (hlo : rs ≠ nextReg rd) (h0 : s.reg rs ≠ 0#32)
    (hsmall : ¬ 2 ^ 32 ≤ ((s.reg rd ++ s.reg (nextReg rd)) / (s.reg rs).setWidth 64).toNat) :
    divide64 rd rs s = .next (putQuotient rd (((s.reg rd ++ s.reg (nextReg rd)) / (s.reg rs).setWidth 64).setWidth 32)
      (nextReg rd) (((s.reg rd ++ s.reg (nextReg rd)) % (s.reg rs).setWidth 64).setWidth 32) false s) := by
  unfold divide64
  rw [if_neg (not_or.2 ⟨hd, hlo⟩), if_neg h0, if_neg hsmall]

end

/-- The 64-bit dividend of a register pair. -/
theorem toNat_append_quads (a b : Quad) : (a ++ b).toNat = a.toNat * 2 ^ 32 + b.toNat := by
  rw [BitVec.toNat_append, ← Nat.shiftLeft_add_eq_or_of_lt b.isLt, Nat.shiftLeft_eq]

theorem toNat_setWidth_64 (m : Quad) : (m.setWidth 64).toNat = m.toNat :=
  BitVec.toNat_setWidth_of_le (by decide)

theorem toNat_quotient64 (a b m : Quad) :
    ((a ++ b) / m.setWidth 64).toNat = (a.toNat * 2 ^ 32 + b.toNat) / m.toNat := by
  rw [BitVec.toNat_udiv, toNat_append_quads, toNat_setWidth_64]

theorem toNat_remainder64 (a b m : Quad) :
    ((a ++ b) % m.setWidth 64).toNat = (a.toNat * 2 ^ 32 + b.toNat) % m.toNat := by
  rw [BitVec.toNat_umod, toNat_append_quads, toNat_setWidth_64]

/-- A quotient below 2^32 goes to the first register of the pair, and the remainder to the second (R234). -/
theorem divide64_divides {rd rs : Reg} {s : State} (hd : rs ≠ rd) (hlo : rs ≠ nextReg rd) (h0 : s.reg rs ≠ 0#32) {n : Nat}
    (hn : n = (s.reg rd).toNat * 2 ^ 32 + (s.reg (nextReg rd)).toNat) (hlt : n < (s.reg rs).toNat * 2 ^ 32) :
    ∃ t, divide64 rd rs s = .next t ∧ n = (t.reg rd).toNat * (s.reg rs).toNat + (t.reg (nextReg rd)).toNat
      ∧ (t.reg (nextReg rd)).toNat < (s.reg rs).toNat ∧ After [rd, nextReg rd] (productFlags s (t.reg rd) false) s t
      ∧ Requested (writtenOnce [rd, nextReg rd] t) s t := by
  have hpos := toNat_pos_of_ne_zero h0
  have hq : n / (s.reg rs).toNat < 2 ^ 32 := (Nat.div_lt_iff_lt_mul hpos).2 (Nat.mul_comm _ _ ▸ hlt)
  have hr : n % (s.reg rs).toNat < (s.reg rs).toNat := Nat.mod_lt _ hpos
  have hquot := toNat_quotient64 (s.reg rd) (s.reg (nextReg rd)) (s.reg rs)
  have hrem := toNat_remainder64 (s.reg rd) (s.reg (nextReg rd)) (s.reg rs)
  rw [← hn] at hquot hrem
  obtain ⟨hrq, hrt, hafter, hreq⟩ := putQuotient_result (nextReg_ne rd)
    (((s.reg rd ++ s.reg (nextReg rd)) / (s.reg rs).setWidth 64).setWidth 32)
    (((s.reg rd ++ s.reg (nextReg rd)) % (s.reg rs).setWidth 64).setWidth 32) false s
  refine ⟨_, divide64_quotient hd hlo h0 (by rw [hquot]; exact Nat.not_le.2 hq), ?_, ?_, by rw [hrq]; exact hafter, hreq⟩
  · rw [hrq, hrt, BitVec.toNat_setWidth, BitVec.toNat_setWidth, hquot, hrem, Nat.mod_eq_of_lt hq,
      Nat.mod_eq_of_lt (Nat.lt_trans hr (s.reg rs).isLt), Nat.mul_comm]
    exact (Nat.div_add_mod _ _).symm
  · rw [hrt, BitVec.toNat_setWidth, hrem, Nat.mod_eq_of_lt (Nat.lt_trans hr (s.reg rs).isLt)]
    exact hr

/-- Settles O30: the quotient fits exactly when the dividend is below the divisor times 2^32. -/
theorem longDivision : Obligations.LongDivision := by
  unfold Obligations.LongDivision
  intro rd rs target s hext lo n
  have hexec : exec (.udiv rd rs) s = divide64 rd rs s := divideUnsigned_long hext
  rw [hexec]
  refine ⟨fun hd hlo h0 hn => divide64_divides hd hlo h0 rfl hn, fun hd hlo h0 => ?_, fun hd hlo h0 hn => ?_,
    fun h => if_pos h⟩
  · rw [divide64_zero hd hlo h0]
    exact raiseOnce_result (e := .divideByZero)
  · have hbig : 2 ^ 32 ≤ ((s.reg rd ++ s.reg (nextReg rd)) / (s.reg rs).setWidth 64).toNat := by
      rw [toNat_quotient64]
      exact (Nat.le_div_iff_mul_le (toNat_pos_of_ne_zero h0)).2 (Nat.mul_comm _ _ ▸ hn)
    rw [divide64_overflow hd hlo h0 hbig]
    exact raiseOnce_result (e := .divideOverflow)

/-! ### SDIV -/

section
variable {rd rs : Reg} {s : State}

theorem divideSigned_zero (h : rd ≠ rs) (h0 : s.reg rs = 0#32) : divideSigned rd rs s = raiseOnce .divideByZero s := by
  simp [divideSigned, h, h0]

theorem divideSigned_overflow (h : rd ≠ rs) (hd : s.reg rd = 0x80000000#32) (hs : s.reg rs = 0xFFFFFFFF#32) :
    divideSigned rd rs s = .next (putQuotient rd 0x80000000#32 rs 0#32 true s) := by
  simp [divideSigned, h, hd, hs]

theorem divideSigned_quotient (h : rd ≠ rs) (h0 : s.reg rs ≠ 0#32)
    (hno : ¬(s.reg rd = 0x80000000#32 ∧ s.reg rs = 0xFFFFFFFF#32)) :
    divideSigned rd rs s
      = .next (putQuotient rd ((s.reg rd).sdiv (s.reg rs)) rs ((s.reg rd).srem (s.reg rs)) false s) := by
  unfold divideSigned
  rw [if_neg h, if_neg h0, if_neg hno]

end

/-- The one signed quotient of two quads that is no quad is that of 8000_0000H by FFFF_FFFFH. -/
theorem toInt_sdiv_of_not_overflow {a b : Quad} (h : ¬(a = 0x80000000#32 ∧ b = 0xFFFFFFFF#32)) :
    (a.sdiv b).toInt = a.toInt.tdiv b.toInt :=
  BitVec.toInt_sdiv_of_ne_or_ne a b (Decidable.not_and_iff_not_or_not.1 h)

/-- A remainder that is not 0 has the dividend's sign. -/
theorem tmod_neg_iff {a b : Int} (h : a.tmod b ≠ 0) : a.tmod b < 0 ↔ a < 0 := by
  have hdvd : ¬ b ∣ a := fun hd => h (Int.tmod_eq_zero_of_dvd hd)
  rw [← Int.sign_eq_neg_one_iff_neg, Int.sign_tmod, if_neg hdvd, Int.sign_eq_neg_one_iff_neg]

/-- Settles O31: the truncated quotient and its remainder, the one quotient that does not fit, the exception, or the
refusal. -/
theorem signedDivision : Obligations.SignedDivision := by
  unfold Obligations.SignedDivision
  refine fun rd rs target s => ⟨fun h h0 hno => ?_, fun h hd hs => ?_, fun h h0 => ?_, fun h => if_pos h⟩
  · obtain ⟨hq, ht, hafter, hreq⟩ := putQuotient_result h ((s.reg rd).sdiv (s.reg rs)) ((s.reg rd).srem (s.reg rs)) false s
    refine ⟨_, divideSigned_quotient h h0 hno, ?_, ?_, ?_, by rw [hq]; exact hafter, hreq⟩
    · rw [hq, ht, toInt_sdiv_of_not_overflow hno, BitVec.toInt_srem, Int.add_comm]
      exact (Int.tmod_add_tdiv_mul _ _).symm
    · rw [ht, BitVec.toInt_srem, Int.natAbs_tmod]
      exact Nat.mod_lt _ (Int.natAbs_pos.2 fun hz => h0 (BitVec.toInt_inj.1 hz))
    · intro hne
      rw [ht] at hne ⊢
      rw [BitVec.toInt_srem]
      refine tmod_neg_iff ?_
      rw [← BitVec.toInt_srem]
      exact fun hz => hne (BitVec.toInt_inj.1 hz)
  · obtain ⟨hq, ht, hafter, hreq⟩ := putQuotient_result h 0x80000000#32 0#32 true s
    exact ⟨_, divideSigned_overflow h hd hs, hq, ht, hafter, hreq⟩
  · have hexec : exec (.sdiv rd rs) s = raiseOnce .divideByZero s := divideSigned_zero h h0
    rw [hexec]
    exact raiseOnce_result (e := .divideByZero)

end Sys2Proof.Claims

/-! RET and IRET, and the illegal instructions. -/

namespace Sys2Proof.Claims

open Sys2Proof.Machine

theorem onlyRegs_jumpTo (s : State) (q : Quad) : OnlyRegs [] s (jumpTo q s) where
  regs _ _ := rfl
  bytes := readsSame_of_mem rfl rfl ⟨rfl, rfl, rfl, rfl⟩
  control := ⟨rfl, rfl, rfl, rfl⟩
  latches := ⟨rfl, rfl⟩
  machine := ⟨rfl, rfl, rfl, rfl, rfl, rfl, rfl, rfl⟩
  request _ := rfl

/-- FLAGS is read at its own place only. -/
theorem valueAt_withFlags {z : Size} {a : Quad} {s : State}
    (h : ∀ k < Size.bytes z, locate s.dev (a + BitVec.ofNat 32 k) ≠ .flags) (f : Byte) :
    valueAt z a { s with flags := f } = valueAt z a s := by
  refine valueAt_congr fun k hk => ?_
  unfold byteAt
  cases hl : locate s.dev (a + BitVec.ofNat 32 k)
  case flags => exact absurd hl (h k hk)
  all_goals rfl

/-- A jump through a vector quad, by the parity of the address there. -/
theorem jumpThrough_of_readable {a v : Quad} {s : State} (hr : Readable s.dev .quad a) (hv : valueAt .quad a s = v) :
    jumpThrough a s = if v.getLsbD 0 then .fault .oddPc else .next (jumpTo v s) := by
  subst hv
  unfold jumpThrough
  rw [readMem_of_readable hr]
  rfl

/-! ### RET -/

theorem returnFromCall_eq {s : State} (hu : Undisturbed s) (hr : Readable s.dev .quad (s.reg spReg)) {v : Quad}
    (hv : v = valueAt .quad (s.reg spReg) s) : returnFromCall s = loadPc v (s.writeReg spReg (s.reg spReg + 4#32)) := by
  subst hv
  unfold returnFromCall
  have hread : busRead .quad s.sp s = _ := busRead_of_readable hu hr
  rw [hread]
  rfl

theorem returnFromCall_result {s : State} (hu : Undisturbed s) (hr : Readable s.dev .quad (s.reg spReg)) {v : Quad}
    (hv : v = valueAt .quad (s.reg spReg) s) :
    (v.getLsbD 0 = false →
      ∃ t, exec .ret s = .next t ∧ t.pc = v ∧ t.reg spReg = s.reg spReg + 4#32 ∧ t.flags = s.flags ∧ OnlyRegs [spReg] s t) ∧
    (v.getLsbD 0 = true → exec .ret s = .fault .oddPc) := by
  have hexec : exec .ret s = _ := returnFromCall_eq hu hr hv
  refine ⟨fun heven => ⟨_, hexec.trans (loadPc_even heven), rfl, reg_writeReg_same s spReg _, rfl, ?_⟩,
    fun hodd => hexec.trans (loadPc_odd hodd)⟩
  exact (onlyRegs_writeReg s spReg _).trans (onlyRegs_jumpTo _ v)

/-! ### IRET -/

/-- A normal return: the PC, then FLAGS from the byte behind the pad byte, each with its own write of SP (R436). -/
def returnedTo (v : Quad) (s : State) : State :=
  jumpTo v { (s.writeReg spReg (s.reg spReg + 4#32)).writeReg spReg (s.reg spReg + 6#32) with
    flags := byteAt (s.reg spReg + 5#32) s }

theorem normalReturn_eq {s : State} (hu : Undisturbed s) (hr : Readable s.dev .quad (s.reg spReg))
    (hf : Readable s.dev .byte (s.reg spReg + 5#32)) {v : Quad} (hv : v = valueAt .quad (s.reg spReg) s) :
    normalReturn s = if v.getLsbD 0 then .fault .oddPc else .next (returnedTo v s) := by
  subst hv
  have hread : busRead .quad s.sp s = _ := busRead_of_readable hu hr
  have hsp1 : (s.writeReg spReg (s.sp + 4#32)).sp + 1#32 = s.reg spReg + 5#32 := by
    rw [sp_writeReg]
    exact BitVec.add_assoc _ _ _
  have hsp2 : (s.writeReg spReg (s.sp + 4#32)).sp + 2#32 = s.reg spReg + 6#32 := by
    rw [sp_writeReg]
    exact BitVec.add_assoc _ _ _
  have hflags : busRead .byte (s.reg spReg + 5#32) (s.writeReg spReg (s.sp + 4#32))
      = .next (byteAt (s.reg spReg + 5#32) s, s.writeReg spReg (s.sp + 4#32)) :=
    busRead_of_readable (s := s.writeReg spReg (s.sp + 4#32)) hu hf
  unfold normalReturn
  rw [hread]
  simp only [andThen_next]
  rw [hsp1, hflags]
  simp only [andThen_next]
  rw [hsp2]
  rfl

theorem normalReturn_result {s : State} (hu : Undisturbed s) (hr : Readable s.dev .quad (s.reg spReg))
    (hf : Readable s.dev .byte (s.reg spReg + 5#32)) {v : Quad} (hv : v = valueAt .quad (s.reg spReg) s) :
    (v.getLsbD 0 = false →
      ∃ t, normalReturn s = .next t ∧ t.pc = v ∧ t.reg spReg = s.reg spReg + 6#32
        ∧ t.flags = byteAt (s.reg spReg + 5#32) s ∧ OnlyRegs [spReg] s t
        ∧ Requested [s.reg spReg + 4#32, s.reg spReg + 6#32] s t) ∧
    (v.getLsbD 0 = true → normalReturn s = .fault .oddPc) := by
  rw [normalReturn_eq hu hr hf hv]
  refine ⟨fun heven => ⟨returnedTo v s, by rw [heven]; rfl, rfl, reg_writeReg_same _ spReg _, rfl, ?_, ?_⟩,
    fun hodd => by rw [hodd]; rfl⟩
  · have h1 := onlyRegs_writeReg s spReg (s.reg spReg + 4#32)
    have h2 := h1.trans (onlyRegs_writeReg _ spReg (s.reg spReg + 6#32))
    exact ((h2.trans (onlyRegs_withFlags _ (byteAt (s.reg spReg + 5#32) s))).trans (onlyRegs_jumpTo _ v)).mono (by simp)
  · exact (requested_writeSp s (s.reg spReg + 4#32)).trans rfl (requested_writeSp _ (s.reg spReg + 6#32))

theorem chainRequest_eq_none {s : State} (h : flagCirqe s.flags = false ∨ s.pending = [] ∨ s.atmCount ≠ 0) :
    chainRequest s = none := by
  rw [Option.eq_none_iff_forall_ne_some]
  intro q hq
  obtain ⟨hcirqe, hatm, hhead⟩ := chainRequest_eq_some.1 hq
  obtain h | h | h := h
  · exact absurd (hcirqe.symm.trans h) (by decide)
  · rw [h] at hhead
    exact absurd hhead (by simp)
  · exact h hatm

/-- A chained return: IRQE is cleared and the request's handler entered, the stack as it is (R436). -/
def chainedTo (v : Quad) (s : State) : State := acceptHead (jumpTo v { s with flags := setIrqe false s.flags })

theorem chainedReturn_eq {q : IrqRequest} {s : State} (hu : Undisturbed s) (hr : Readable s.dev .quad q.vectorAddr)
    (hf : ∀ k < 4, locate s.dev (q.vectorAddr + BitVec.ofNat 32 k) ≠ .flags) {v : Quad}
    (hv : v = valueAt .quad q.vectorAddr s) :
    chainedReturn q s = if v.getLsbD 0 then .fault .oddPc else .next (chainedTo v s) := by
  have hjump : busJump q.vectorAddr { s with flags := setIrqe false s.flags } = _ :=
    (busJump_undisturbed (s := { s with flags := setIrqe false s.flags }) hu _).trans
      (jumpThrough_of_readable (s := { s with flags := setIrqe false s.flags }) hr
        ((valueAt_withFlags (z := .quad) hf _).trans hv.symm))
  unfold chainedReturn
  rw [hjump]
  split <;> rfl

theorem chainedReturn_result {q : IrqRequest} {qs : List IrqRequest} {s : State} (hu : Undisturbed s)
    (hp : s.pending = q :: qs) (hr : Readable s.dev .quad q.vectorAddr)
    (hf : ∀ k < 4, locate s.dev (q.vectorAddr + BitVec.ofNat 32 k) ≠ .flags) {v : Quad}
    (hv : v = valueAt .quad q.vectorAddr s) :
    (v.getLsbD 0 = false →
      ∃ t, chainedReturn q s = .next t ∧ t.pc = v
        ∧ t.flags = flagsByte (flagC s.flags) (flagZ s.flags) (flagS s.flags) (flagV s.flags) (flagB s.flags)
            (flagF1 s.flags) (flagCirqe s.flags) false
        ∧ OnlyRegs [] { s with pending := qs } t) ∧
    (v.getLsbD 0 = true → chainedReturn q s = .fault .oddPc) := by
  rw [chainedReturn_eq hu hr hf hv]
  refine ⟨fun heven => ⟨chainedTo v s, by rw [heven]; rfl, rfl, setIrqe_eq false s.flags, ?_⟩,
    fun hodd => by rw [hodd]; rfl⟩
  have htail : s.pending.tail = qs := by rw [hp]; rfl
  have hstate : chainedTo v s = jumpTo v { { s with pending := qs } with flags := setIrqe false s.flags } := by
    rw [← htail]
    rfl
  rw [hstate]
  exact (onlyRegs_withFlags { s with pending := qs } (setIrqe false s.flags)).trans (onlyRegs_jumpTo _ v)

/-- Settles O51: RET, then IRET by whether a request is chained. -/
theorem returns : Obligations.Returns := by
  unfold Obligations.Returns
  refine fun s hu => ⟨fun hr => returnFromCall_result hu hr rfl, fun hno hr hf => ?_, fun q qs hcirqe hp hatm hr hf => ?_⟩
  · have hexec : exec .iret s = normalReturn s := returnFromInterrupt_none (chainRequest_eq_none hno)
    rw [hexec]
    exact normalReturn_result hu hr hf rfl
  · have hexec : exec .iret s = chainedReturn q s :=
      returnFromInterrupt_some (chainRequest_eq_some.2 ⟨hcirqe, hatm, by rw [hp]; rfl⟩)
    rw [hexec]
    exact chainedReturn_result hu hp hr hf rfl

/-! ### Illegal instructions -/

/-- The vector of the system exceptions is below the I/O block. -/
theorem locate_sysExcVector_ne_flags (d : Device) {k : Nat} (hk : k < 4) :
    locate d (sysExcVector + BitVec.ofNat 32 k) ≠ .flags := by
  have hlow : physical d (sysExcVector + BitVec.ofNat 32 k) < ioBase d := by
    have hnat : (sysExcVector + BitVec.ofNat 32 k).toNat = 8 + k := by
      simp only [sysExcVector, BitVec.toNat_add, BitVec.toNat_ofNat]
      omega
    refine Nat.lt_of_le_of_lt (Nat.mod_le _ _) ?_
    rw [hnat]
    unfold ioBase
    cases d.addrWidth
    · exact Nat.lt_of_lt_of_le (show 8 + k < 12 by omega) (by decide)
    · exact Nat.lt_of_lt_of_le (show 8 + k < 12 by omega) (by decide)
  unfold locate
  rw [if_neg (Nat.not_le.2 hlow)]
  unfold locateMem
  split
  · simp
  · split <;> simp

/-- A second illegal instruction changes FLAGS as an exception does and pushes nothing (D30). -/
theorem illegalInstruction_again {p : Quad} {s : State} (h : s.sysexcp.ill = true) :
    illegalInstruction p s
      = jumpThrough sysExcVector { s with extPending := false, noflagsPending := false, flags := exceptionFlags s } := by
  have hflags : (excIrqe (copyIrqe (clearLatches s))).flags = exceptionFlags s := exceptionFlags_eq (s := s) rfl rfl
  rw [illegalInstruction_set h, excIrqe_eq_withFlags, hflags]
  rfl

theorem illegalInstruction_again_result {p target : Quad} {s : State} (hset : s.sysexcp.ill = true)
    (hr : Readable s.dev .quad sysExcVector) (hv : valueAt .quad sysExcVector s = target)
    (heven : target.getLsbD 0 = false) :
    ∃ t, illegalInstruction p s = .next t ∧ t.pc = target ∧ t.flags = exceptionFlags s
      ∧ OnlyRegs [] { s with extPending := false, noflagsPending := false } t := by
  have hvalue := (valueAt_withFlags (z := .quad) (s := { s with extPending := false, noflagsPending := false })
    (fun k hk => locate_sysExcVector_ne_flags s.dev hk) (exceptionFlags s)).trans hv
  have hodd : ¬ target.getLsbD 0 = true := by
    rw [heven]
    decide
  have hjump := (jumpThrough_of_readable
    (s := { s with extPending := false, noflagsPending := false, flags := exceptionFlags s }) hr hvalue).trans (if_neg hodd)
  refine ⟨_, (illegalInstruction_again hset).trans hjump, rfl, rfl, ?_⟩
  exact (onlyRegs_withFlags { s with extPending := false, noflagsPending := false } (exceptionFlags s)).trans
    (onlyRegs_jumpTo _ target)

theorem illegalInstruction_first {p target : Quad} (q : Quad) {s : State} (hclear : s.sysexcp.ill = false)
    (he : EntryReady s sysExcVector target) :
    ∃ t, illegalInstruction p { s with pc := q } = .next t ∧ ExceptionTaken .illegalInstruction s t p target
      ∧ t.extPending = false ∧ t.noflagsPending = false ∧ Requested (pushesOfException s) s t := by
  rw [illegalInstruction_clear (s := { s with pc := q }) hclear]
  exact takeException_cleared q he

/-- ILL and BRK without breaks are the Illegal Instruction exception at their own address. -/
theorem exec_illegal {i : Instr} {s : State} (h : i = .ill ∨ (i = .brk ∧ s.dev.ocdBreaks = false)) :
    exec i s = illegalInstruction (s.pc - 2#32) s := by
  obtain rfl | ⟨rfl, hbreaks⟩ := h
  · rfl
  · exact breakPoint_disabled hbreaks

/-- Settles O54: by the ILL bit, and by the device's breaks. -/
theorem illegalInstruction : Obligations.IllegalInstruction := by
  unfold Obligations.IllegalInstruction
  refine fun i target s => ⟨fun h => ?_, fun hbreaks hext => ?_⟩
  · rw [exec_illegal h]
    exact ⟨fun hclear he => illegalInstruction_first s.pc hclear he,
      fun hset hr hv heven => illegalInstruction_again_result hset hr hv heven⟩
  · show breakPoint s = _
    unfold breakPoint
    rw [if_pos hbreaks, hext]
    rfl

end Sys2Proof.Claims

/-! Whole steps: an accepted request, the waiting modes, a skipped instruction, an illegal word, and the reset event. -/

namespace Sys2Proof.Claims

open Sys2Proof.Machine

/-! ### The stack check that finds nothing -/

theorem finishStep_of_no_request {s : State} (h : s.spovReq = false) : finishStep s = .next s := by
  refine finishStep_eq_next.2 ?_
  rw [h, Bool.false_and, if_neg (by decide), ← h]

/-- Pushes that stay above SPOV request nothing. -/
theorem not_requested_of_above {written : List Quad} {n : Nat} {s t : State} (hreq : Requested written s t)
    (hwritten : ∀ v ∈ written, ∃ k < n, v = s.reg spReg - BitVec.ofNat 32 (k + 1)) (habove : StackAbove s n)
    (h0 : s.spovReq = false) : t.spovReq = false := by
  rw [hreq, h0, Bool.false_or, List.any_eq_false]
  intro v hv
  obtain ⟨k, hk, rfl⟩ := hwritten v hv
  exact fun hlt => habove k hk (of_decide_eq_true hlt)

theorem exception_requests_nothing {s t : State} (hreq : Requested (pushesOfException s) s t) (habove : StackAbove s 6)
    (h0 : s.spovReq = false) : t.spovReq = false := by
  refine not_requested_of_above hreq (fun v hv => ?_) habove h0
  simp only [pushesOfException, List.mem_cons, List.not_mem_nil, or_false] at hv
  obtain rfl | rfl := hv
  · exact ⟨1, by decide, rfl⟩
  · exact ⟨5, by decide, rfl⟩

theorem interrupt_requests_nothing {s t : State} (hreq : Requested (pushesOfInterrupt s) s t) (habove : StackAbove s 6)
    (h0 : s.spovReq = false) : t.spovReq = false := by
  refine not_requested_of_above hreq (fun v hv => ?_) habove h0
  obtain ⟨n, hn, rfl⟩ := List.mem_map.1 hv
  have hn : 1 ≤ n ∧ n ≤ 6 := by
    simp only [List.mem_cons, List.not_mem_nil, or_false] at hn
    omega
  exact ⟨n - 1, by omega, by rw [Nat.sub_add_cancel hn.1]⟩

/-! ### Requests -/

theorem wakeRequest_eq_some {q : IrqRequest} {qs : List IrqRequest} {s : State} (hp : s.pending = q :: qs)
    (h : flagIrqe s.flags = true ∨ q.nonmaskable = true) : wakeRequest s = some q := by
  unfold wakeRequest
  rw [hp, List.head?_cons, Option.filter_some, if_pos (by simpa using h)]

theorem wakeRequest_eq_none {s : State}
    (h : s.pending = [] ∨ ∃ q qs, s.pending = q :: qs ∧ flagIrqe s.flags = false ∧ q.nonmaskable = false) :
    wakeRequest s = none := by
  unfold wakeRequest
  obtain hp | ⟨q, qs, hp, hi, hn⟩ := h
  · rw [hp]
    rfl
  · rw [hp, List.head?_cons, Option.filter_some, hi, hn]
    rfl

/-! ### The waiting modes -/

section
variable {s : State} {q : IrqRequest} {rule : WakeRule}

theorem stepWaiting_asleep (h : wakeRequest s = none) : stepWaiting rule s = .next s := by
  unfold stepWaiting
  rw [h]

theorem stepWaiting_awake (h : wakeRequest s = some q) : stepWaiting rule s = wakeBy rule q s := by
  unfold stepWaiting
  rw [h]

theorem stepWaiting_stay (s : State) : stepWaiting .stay s = .next s := by
  unfold stepWaiting
  split <;> rfl

/-- A step in Halt or Stop mode goes by the mode's rule. -/
theorem step_waiting (h : (s.runMode = .halt ∧ s.dev.haltWake = rule) ∨ (s.runMode = .stop ∧ s.dev.stopWake = rule)) :
    step s = stepWaiting rule s := by
  unfold step
  obtain ⟨hm, rfl⟩ | ⟨hm, rfl⟩ := h <;> rw [hm]

end

/-- Settles O57: by the highest request, and by the rule of the mode. -/
theorem waitingModes : Obligations.WaitingModes := by
  unfold Obligations.WaitingModes
  refine fun s => ⟨fun hm hp => ?_, fun hm => ?_, fun hm hp => ?_, fun hm => ?_⟩
  · have hstep : ∃ rule, step s = stepWaiting rule s := by
      obtain hm | hm := hm
      · exact ⟨_, step_waiting (.inl ⟨hm, rfl⟩)⟩
      · exact ⟨_, step_waiting (.inr ⟨hm, rfl⟩)⟩
    obtain ⟨rule, hstep⟩ := hstep
    exact hstep.trans (stepWaiting_asleep (wakeRequest_eq_none hp))
  · exact (step_waiting hm).trans (stepWaiting_stay s)
  · obtain ⟨q, qs, hp, hq⟩ := hp
    exact (step_waiting hm).trans (stepWaiting_awake (wakeRequest_eq_some hp hq))
  · unfold Stuck step
    rw [hm]

/-! ### Interrupt entry -/

/-- The state in which a request is entered: the CPU runs, and no ATM window is open. -/
def entering (s : State) : State := { s with runMode := .running, atmCount := 0 }

theorem entering_eq {s : State} (hm : s.runMode = .running) (ha : s.atmCount = 0) : entering s = s := by
  unfold entering
  rw [← hm, ← ha]

/-- An acceptable request is accepted at a boundary, and where the device lets it end Halt or Stop mode. -/
theorem step_accepts {q : IrqRequest} {qs : List IrqRequest} {s : State} (hp : s.pending = q :: qs)
    (hq : flagIrqe s.flags = true ∨ q.nonmaskable = true)
    (h : (s.runMode = .running ∧ s.atmCount = 0 ∧ s.extPending = false ∧ s.noflagsPending = false)
      ∨ (s.runMode = .halt ∧ s.dev.haltWake = .enter) ∨ (s.runMode = .stop ∧ s.dev.stopWake = .enter)) :
    step s = acceptInterrupt q (entering s) := by
  have hwake := wakeRequest_eq_some hp hq
  obtain ⟨hm, ha, hext, hnf⟩ | hm := h
  · rw [entering_eq hm ha]
    unfold step stepRunning
    rw [hm, boundaryRequest_eq_some.2 ⟨ha, hext, hnf, hwake⟩]
  · exact (step_waiting hm).trans (stepWaiting_awake hwake)

/-- Settles O56: the entry, and then the stack check, which has nothing to do where the stack stays above SPOV. -/
theorem interruptEntry : Obligations.InterruptEntry := by
  unfold Obligations.InterruptEntry
  intro q qs target s hp hq hmode he
  obtain ⟨hmemory, hframe, hinMemory, hapart, hvalue, heven⟩ := he
  obtain ⟨t, ht, hentered, hflags, hsysexcp, hlatches, hmachine, hreq⟩ :=
    interruptEntry_taken (s := entering s) (q := q) ⟨hmemory, hframe, hinMemory, hapart, hvalue, heven⟩
  have hstep : step s = finishStep t := by
    rw [step_accepts hp hq hmode]
    unfold acceptInterrupt
    rw [ht, andThen_next]
  refine ⟨t, hstep, fun habove h0 => hstep.trans (finishStep_of_no_request (interrupt_requests_nothing hreq habove h0)),
    { hentered with }, hflags, hsysexcp, ?_, hmachine.runMode, hmachine.atmCount, ⟨hlatches.ext, hlatches.noflags⟩,
    hmachine.dev, hmachine.wdtEnabled, hmachine.wdtCounter, hmachine.dmaPlan, hmachine.dmaSeen, hreq⟩
  exact hmachine.pending.trans (congrArg List.tail hp)

/-! ### Steps that end in an exception -/

/-- Settles O59: the words are fetched, and the exception pushes the address after them. -/
theorem pcOverflow : Obligations.PcOverflow := by
  unfold Obligations.PcOverflow
  intro target s hm hno hf hlt hclear he habove h0
  have hover : pcOverflows s = true := by
    unfold pcOverflows
    rw [hclear, Bool.not_false, Bool.and_true]
    exact decide_eq_true hlt
  obtain ⟨t, ht, htaken, hext, hnf, hreq⟩ :=
    takeException_cleared (e := .pcOverflow) (p := afterInstr s.pc (wordAtPc s)) (afterInstr s.pc (wordAtPc s)) he
  have hspov := exception_requests_nothing hreq habove h0
  refine ⟨t, ?_, htaken, hext, hnf, hspov⟩
  rw [step_of_no_request hm hno, runInstruction_fetchable hf, if_pos hover]
  unfold skipOverflow
  rw [ht, andThen_next]
  exact finishStep_of_no_request hspov

theorem executeWords_illegal {s : State} {w : Word} (h : decode s.extPending (instrBytes s) = .whole (.illegal w)) :
    executeWords (fetchedAtPc s) s = Machine.illegalInstruction s.pc s := by
  rw [decode_instrBytes] at h
  injection h with h
  unfold executeWords
  rw [h]

/-- Settles O60: the word decodes to no instruction, and the exception pushes its address. -/
theorem unimplementedWordTraps : Obligations.UnimplementedWordTraps := by
  unfold Obligations.UnimplementedWordTraps
  intro target s hm hno hf hover hd hclear he habove h0
  obtain ⟨t, ht, htaken, hext, hnf, hreq⟩ := illegalInstruction_first (p := s.pc) s.pc hclear he
  have hspov := exception_requests_nothing hreq habove h0
  refine ⟨t, ?_, htaken, hext, hnf, hspov⟩
  rw [step_of_no_request hm hno, runInstruction_fetchable hf, hover, if_neg (by decide), executeWords_illegal hd]
  exact (congrArg (andThen · finishStep) ht).trans (finishStep_of_no_request hspov)

/-! ### The reset event -/

/-- The state in which the RESET vector is read. -/
def resetting (s : State) : State :=
  { State.reset with
    mem := s.mem, dev := s.dev, wdtEnabled := s.dev.wdtEnabledAtReset, wdtCounter := s.dev.wdtPeriod.getD 0 }

/-- Memory and the device are all that a byte of memory is read from. -/
theorem byteAt_of_mem {a : Quad} {p : Nat} {s t : State} (h : locate s.dev a = .memory p ∨ locate s.dev a = .readOnly p)
    (hdev : t.dev = s.dev) (hmem : t.mem = s.mem) : byteAt a t = byteAt a s := by
  unfold byteAt
  rw [hdev]
  obtain h | h := h <;> rw [h, hmem]

theorem resetMachine_eq {s : State} {v : Quad}
    (h : ∀ k < 4, ∃ p, locate s.dev (s.dev.resetVector + BitVec.ofNat 32 k) = .memory p
      ∨ locate s.dev (s.dev.resetVector + BitVec.ofNat 32 k) = .readOnly p)
    (hv : v = valueAt .quad s.dev.resetVector s) :
    resetMachine s = if v.getLsbD 0 then .fault .oddPc else .next (jumpTo v (resetting s)) := by
  have hr : Readable (resetting s).dev .quad s.dev.resetVector := readable_iff.2 fun k hk => by
    show readStop s.dev _ = none
    obtain ⟨p, hp | hp⟩ := h k hk <;> simp [readStop, hp]
  have hvalue : valueAt .quad s.dev.resetVector (resetting s) = v := by
    refine (valueAt_congr fun k hk => ?_).trans hv.symm
    obtain ⟨p, hp⟩ := h k hk
    exact byteAt_of_mem hp rfl rfl
  exact jumpThrough_of_readable hr hvalue

/-- Settles O10: the reset values, and the PC from the vector. -/
theorem resetEvent : Obligations.ResetEvent := by
  unfold Obligations.ResetEvent
  intro s h
  have hf1 : flagF1 State.reset.flags = false := by decide
  have hcirqe : flagCirqe State.reset.flags = false := by decide
  have hirqe : flagIrqe State.reset.flags = false := by decide
  rw [resetMachine_eq h rfl]
  exact ⟨fun heven => ⟨jumpTo (valueAt .quad s.dev.resetVector s) (resetting s),
    if_neg (Bool.eq_false_iff.1 heven), rfl, rfl, rfl, rfl, rfl, hf1, hcirqe, hirqe,
    rfl, rfl, rfl, rfl, rfl, rfl, rfl, rfl, rfl, rfl, rfl, rfl⟩, fun hodd => if_pos hodd⟩

end Sys2Proof.Claims

/-! Which operations write R15, and the Stack Overflow request that they leave. -/

namespace Sys2Proof.Claims

open Sys2Proof.Machine

/-! ### Operations that leave R15 -/

/-- R15 and the Stack Overflow request stay. -/
structure SpStays (s t : State) : Prop where
  sp : t.reg spReg = s.reg spReg
  request : t.spovReq = s.spovReq

theorem SpStays.refl (s : State) : SpStays s s := ⟨rfl, rfl⟩

theorem SpStays.trans {s t u : State} (h : SpStays s t) (k : SpStays t u) : SpStays s u :=
  ⟨k.sp.trans h.sp, k.request.trans h.request⟩

theorem spStays_setFlags (s : State) (p : FlagPatch) : SpStays s (s.setFlags p) :=
  ⟨setFlags_reg s p spReg, setFlags_spovReq s p⟩

theorem spStays_memoryOnly {s t : State} (h : MemoryOnly s t) : SpStays s t := by
  obtain ⟨⟨_, _, _, _, _, _, _, _, _, rfl⟩, -, -, -⟩ := h
  exact ⟨rfl, rfl⟩

theorem spStays_loadPc {q : Quad} {s t : State} (h : loadPc q s = .next t) : SpStays s t := by
  obtain ⟨-, rfl⟩ := loadPc_eq_next.1 h
  exact ⟨rfl, rfl⟩

/-! ### Operations that write R15 at most once -/

/-- t is s after one write of each of these registers, as far as R15 goes: without R15 among them the request stays, and
with it the new R15 is compared with SPOV. The DMA controller could change SPOV before the write. -/
structure AsksOnce (rs : List Reg) (s t : State) : Prop where
  stays : spReg ∉ rs → t.spovReq = s.spovReq
  asks : spReg ∈ rs → Undisturbed s → t.spovReq = (s.spovReq || decide ((t.reg spReg).toNat < s.spov.toNat))

section
variable {rs : List Reg} {s t u : State}

theorem SpStays.asksOnce (h : SpStays s t) : AsksOnce [] s t := ⟨fun _ => h.request, fun hsp => absurd hsp List.not_mem_nil⟩

theorem AsksOnce.after (h : AsksOnce rs s t) (k : SpStays t u) : AsksOnce rs s u :=
  ⟨fun hsp => k.request.trans (h.stays hsp), fun hsp hu => by rw [k.request, k.sp, h.asks hsp hu]⟩

/-- A read before the write; where the DMA controller does nothing it changes nothing. -/
theorem AsksOnce.read {z : Size} {a : Quad} {x : BitVec (Size.bits z) × State} (hx : busRead z a s = .next x)
    (h : AsksOnce rs x.2 t) : AsksOnce rs s t where
  stays hsp := (h.stays hsp).trans (spStays_memoryOnly (busRead_memoryOnly hx)).request
  asks hsp hu := by
    obtain ⟨-, rfl⟩ := (busRead_eq_next hu).1 hx
    exact h.asks hsp hu

/-- Every write of R15 is compared with SPOV. -/
theorem request_writeSp (s : State) (v : Quad) :
    (s.writeReg spReg v).spovReq
      = (s.spovReq || decide (((s.writeReg spReg v).reg spReg).toNat < s.spov.toNat)) := by
  rw [reg_writeReg_same, spovReq_writeReg_sp]

theorem asksOnce_writeReg (s : State) (r : Reg) (v : Quad) : AsksOnce [r] s (s.writeReg r v) where
  stays hsp := spovReq_writeReg_other (Ne.symm (List.ne_of_not_mem_cons hsp)) s v
  asks hsp _ := by
    obtain rfl := List.mem_singleton.1 hsp
    exact request_writeSp s v

theorem asksOnce_writeReg_setFlags (s : State) (r : Reg) (v : Quad) (p : FlagPatch) :
    AsksOnce [r] s ((s.writeReg r v).setFlags p) :=
  (asksOnce_writeReg s r v).after (spStays_setFlags _ p)

/-- Two different registers. -/
theorem asksOnce_writeReg_writeReg {s : State} {r q : Reg} (h : r ≠ q) (v w : Quad) (p : FlagPatch) :
    AsksOnce [r, q] s (((s.writeReg r v).writeReg q w).setFlags p) := by
  have hreq := requested_writeReg_writeReg (s := s) h v w p
  refine ⟨fun hsp => ?_, fun hsp _ => ?_⟩
  · rw [writtenOnce, if_neg hsp, Requested, List.any_nil, Bool.or_false] at hreq
    exact hreq
  · rw [writtenOnce, if_pos hsp, Requested, List.any_cons, List.any_nil, Bool.or_false] at hreq
    exact hreq

/-! ### The shared operations -/

theorem asksOnce_busPush {z : Size} {v : BitVec (Size.bits z)} (h : busPush z v s = .next t) : AsksOnce [spReg] s t :=
  (asksOnce_writeReg s spReg _).after (spStays_memoryOnly (busWriteDown_memoryOnly h))

/-- The register that a binary operation writes, if its destination is one and it writes its destination. -/
def bopWritten (op : Bop) (f : BopForm) : List Reg := if bopWrites op then (bopDestination f).toList else []

theorem asksOnce_bopReg {op : Bop} {rd : Reg} {b : Quad} {old : Byte} (h : bopReg op rd b old s = .next t) :
    AsksOnce (if bopWrites op then [rd] else []) s t := by
  rw [bopReg_eq, next_inj] at h
  subst h
  split
  · exact asksOnce_writeReg_setFlags s rd _ _
  · exact (spStays_setFlags s _).asksOnce

theorem spStays_bopMem {op : Bop} {z : Size} {ea : Quad} {b : BitVec (Size.bits z)} (h : bopMem op z ea b s = .next t) :
    SpStays s t := by
  obtain ⟨a, ha, h⟩ := andThen_eq_next.1 h
  refine (spStays_memoryOnly (busRead_memoryOnly ha)).trans ?_
  dsimp only at h
  split at h
  · obtain ⟨u, hu, rfl⟩ := andThen_next_eq_next.1 h
    exact (spStays_memoryOnly (busWrite_memoryOnly hu)).trans (spStays_setFlags u _)
  · exact next_inj.1 h ▸ spStays_setFlags a.2 _

theorem asksOnce_bop {op : Bop} {f : BopForm} (h : bop op f s = .next t) : AsksOnce (bopWritten op f) s t := by
  have hmem (hd : bopDestination f = none) (hs : SpStays s t) : AsksOnce (bopWritten op f) s t := by
    rw [bopWritten, hd, Option.toList_none, ite_self]
    exact hs.asksOnce
  cases f with
  | imm32 rd imm | uimm16 rd imm | reg rd rs => exact asksOnce_bopReg h
  | load k rd m =>
    obtain ⟨v, hv, h⟩ := andThen_eq_next.1 h
    exact (asksOnce_bopReg h).read hv
  | store z m rs | memImm32 rd imm | memSimm16 rd imm | memWImm16 rd imm | memBImm8 rd imm =>
    exact hmem rfl (spStays_bopMem h)

theorem spStays_uop {op : Uop} {z : Size} {m : UopMem} (h : uop op z m s = .next t) : SpStays s t := by
  cases op with
  | clr => exact spStays_memoryOnly (busWrite_memoryOnly h)
  | cpz =>
    obtain ⟨a, ha, rfl⟩ := andThen_next_eq_next.1 h
    exact (spStays_memoryOnly (busRead_memoryOnly ha)).trans (spStays_setFlags a.2 _)
  | inc | dec =>
    obtain ⟨a, ha, h⟩ := andThen_eq_next.1 h
    obtain ⟨u, hu, rfl⟩ := andThen_next_eq_next.1 h
    exact (spStays_memoryOnly (busRead_memoryOnly ha)).trans <|
      (spStays_memoryOnly (busWrite_memoryOnly hu)).trans (spStays_setFlags u _)

/-- The pointer that a load raises, and its destination. -/
def loadWritten (rd : Reg) : LoadMem → List Reg
  | .postInc rs => [rs, rd]
  | _ => [rd]

theorem asksOnce_load {k : LoadKind} {rd : Reg} {m : LoadMem} (h : load k rd m s = .next t) :
    AsksOnce (loadWritten rd m) s t := by
  unfold load at h
  split at h
  · cases h
  · next hclash =>
    obtain ⟨v, hv, rfl⟩ := andThen_next_eq_next.1 h
    refine AsksOnce.read hv ?_
    cases m with
    | postInc rs => exact asksOnce_writeReg_writeReg (by simpa [loadClash] using hclash) _ _ _
    | _ => exact asksOnce_writeReg_setFlags v.2 rd _ _

/-- The pointer that a store lowers before the store. -/
def storeLowered : StoreMem → List Reg
  | .preDec rd => [rd]
  | _ => []

theorem asksOnce_storeBefore (z : Size) (m : StoreMem) (s : State) : AsksOnce (storeLowered m) s (storeBefore z m s) := by
  cases m with
  | preDec rd => exact asksOnce_writeReg s rd _
  | _ => exact (SpStays.refl s).asksOnce

theorem spStays_storeDatum {z : Size} {m : StoreMem} {v : BitVec (Size.bits z)} (h : storeDatum z m v s = .next t) :
    SpStays s t := by
  cases m with
  | preDec rd => exact spStays_memoryOnly (busWriteDown_memoryOnly h)
  | _ => exact spStays_memoryOnly (busWrite_memoryOnly h)

theorem spStays_storeAfter {z : Size} {m : StoreMem} (hm : m ≠ .postInc spReg) (s : State) :
    SpStays s (storeAfter z m s) := by
  cases m with
  | postInc rd =>
    have hrd : rd ≠ spReg := fun h => hm (h ▸ rfl)
    exact ⟨reg_writeReg_other s _ hrd.symm, spovReq_writeReg_other hrd s _⟩
  | _ => exact SpStays.refl s

/-- A store, of a register or of a constant: its pointer lowered, the datum, its pointer raised. -/
theorem asksOnce_stored {z : Size} {m : StoreMem} {v : BitVec (Size.bits z)} (hm : m ≠ .postInc spReg)
    (hu : storeDatum z m v (storeBefore z m s) = .next u) : AsksOnce (storeLowered m) s (storeAfter z m u) :=
  (asksOnce_storeBefore z m s).after ((spStays_storeDatum hu).trans (spStays_storeAfter hm u))

/-- A store that raises R15: the raised value is compared with SPOV as the store left it. -/
theorem request_storedThroughSp {z : Size} {v : BitVec (Size.bits z)}
    (hu : storeDatum z (.postInc spReg) v s = .next u) :
    (storeAfter z (.postInc spReg) u).spovReq
      = (s.spovReq || decide (((storeAfter z (.postInc spReg) u).reg spReg).toNat
          < (storeAfter z (.postInc spReg) u).spov.toNat)) := by
  rw [← (spStays_storeDatum hu).request]
  exact request_writeSp u _

theorem asksOnce_multiplyWide {signed : Bool} {rd rs : Reg} (h : multiplyWide signed rd rs s = .next t) :
    AsksOnce [rd, rs] s t := by
  unfold multiplyWide at h
  split at h
  · cases h
  · next hne => exact next_inj.1 h ▸ asksOnce_writeReg_writeReg hne _ _ _

/-- The registers that a shift by a register count writes: behind the Extend prefix the source too. -/
def shiftWritten (rd rs : Reg) (s : State) : List Reg := if s.extPending then [rd, rs] else [rd]

theorem asksOnce_shiftReg {op : ShiftOp} {rd rs : Reg} (h : shiftReg op rd rs s = .next t) :
    AsksOnce (shiftWritten rd rs s) s t := by
  unfold shiftReg at h
  split at h
  · next hext =>
    rw [shiftWritten, if_pos hext]
    split at h
    · cases h
    · next hne => exact next_inj.1 h ▸ asksOnce_writeReg_writeReg hne _ _ _
  · next hext =>
    rw [shiftWritten, if_neg hext]
    exact next_inj.1 h ▸ asksOnce_writeReg_setFlags s rd _ _

/-- A call: the push, and a jump. -/
theorem asksOnce_call {target : State → Quad} {z : Size} {v : BitVec (Size.bits z)}
    (h : (andThen (busPush z v s) fun u => .next (jumpTo (target u) u)) = .next t) : AsksOnce [spReg] s t := by
  obtain ⟨u, hu, rfl⟩ := andThen_next_eq_next.1 h
  exact (asksOnce_busPush hu).after ⟨rfl, rfl⟩

theorem asksOnce_popFlags (h : popFlags s = .next t) : AsksOnce [spReg] s t := by
  obtain ⟨f, hf, rfl⟩ := andThen_next_eq_next.1 h
  have hwrite := asksOnce_writeReg f.2 spReg (f.2.sp + 2#32)
  have hflags : SpStays (f.2.writeReg spReg (f.2.sp + 2#32)) { f.2.writeReg spReg (f.2.sp + 2#32) with flags := f.1 } :=
    ⟨rfl, rfl⟩
  exact (hwrite.after hflags).read hf

theorem asksOnce_returnFromCall (h : returnFromCall s = .next t) : AsksOnce [spReg] s t := by
  obtain ⟨r, hr, h⟩ := andThen_eq_next.1 h
  exact ((asksOnce_writeReg r.2 spReg _).after (spStays_loadPc h)).read hr

theorem asksOnce_decrementJump {rd : Reg} {rel : BitVec 4} (h : decrementJump rd rel s = .next t) : AsksOnce [rd] s t := by
  have hdec : AsksOnce [rd] s (decremented rd s) := asksOnce_writeReg_setFlags s rd _ _
  rw [decrementJump_eq] at h
  split at h
  · exact next_inj.1 h ▸ hdec
  · exact next_inj.1 h ▸ hdec.after ⟨rfl, rfl⟩

theorem spStays_jumpConditional {n : Nat} {cc : CC} {rel : BitVec n} (h : jumpConditional cc rel s = .next t) :
    SpStays s t := by
  unfold jumpConditional at h
  split at h
  · exact next_inj.1 h ▸ ⟨rfl, rfl⟩
  · exact next_inj.1 h ▸ SpStays.refl s

end

/-! ### One write of R15 -/

theorem extend_asksOnce {k : LoadKind} {rd rs : Reg} {i : Instr} {s t : State} (hi : extInstr k rd rs = some i)
    (h : exec i s = .next t) : AsksOnce [rd] s t := by
  cases k <;> cases hi <;> exact next_inj.1 h ▸ asksOnce_writeReg_setFlags s rd _ _

theorem mem_bopWritten {op : Bop} {f : BopForm} :
    spReg ∈ bopWritten op f ↔ (op ≠ .cp ∧ op ≠ .tm ∧ op ≠ .tcm) ∧ bopDestination f = some spReg := by
  have hw : bopWrites op = true ↔ op ≠ .cp ∧ op ≠ .tm ∧ op ≠ .tcm := by cases op <;> simp [bopWrites]
  unfold bopWritten
  rw [← hw]
  split
  · next h => simp [h, Option.mem_toList]
  · next h => simp [h]

theorem mem_loadWritten {rd : Reg} {m : LoadMem} : spReg ∈ loadWritten rd m ↔ rd = spReg ∨ m = .postInc spReg := by
  cases m <;> simp [loadWritten, eq_comm, or_comm]

theorem mem_storeLowered {m : StoreMem} : spReg ∈ storeLowered m ↔ m = .preDec spReg := by
  cases m <;> simp [storeLowered, eq_comm]

theorem mem_shiftWritten {rd rs : Reg} {s : State} :
    spReg ∈ shiftWritten rd rs s ↔ rd = spReg ∨ (rs = spReg ∧ s.extPending = true) := by
  unfold shiftWritten
  split
  · next h => simp [h, eq_comm]
  · next h => simp [h, eq_comm]

/-- An instruction that writes R15 once writes these registers once each, R15 among them. -/
theorem asksOnce_of_writesSpOnce {i : Instr} {s t : State} (hi : WritesSpOnce s i) (h : exec i s = .next t) :
    ∃ rs, spReg ∈ rs ∧ AsksOnce rs s t := by
  have hsp : spReg ∈ [spReg] := List.mem_singleton.2 rfl
  have hwritten {r : Reg} {v : Quad} (h : Host.Outcome.next (s.writeReg r v) = (.next t : Out State)) : AsksOnce [r] s t :=
    next_inj.1 h ▸ asksOnce_writeReg s r v
  have hflagged {r : Reg} {v : Quad} {p : FlagPatch}
      (h : Host.Outcome.next ((s.writeReg r v).setFlags p) = (.next t : Out State)) : AsksOnce [r] s t :=
    next_inj.1 h ▸ asksOnce_writeReg_setFlags s r v p
  cases hi with
  | bop op f writes hd =>
    rw [exec_bopInstr] at h
    exact ⟨_, mem_bopWritten.2 ⟨writes, hd⟩, asksOnce_bop h⟩
  | load k rd m hm =>
    rw [exec_loadInstr] at h
    exact ⟨_, mem_loadWritten.2 hm, asksOnce_load h⟩
  | store z rs =>
    rw [exec_storeInstr] at h
    obtain ⟨u, hu, rfl⟩ := andThen_next_eq_next.1 h
    exact ⟨_, mem_storeLowered.2 rfl, asksOnce_stored (by simp) hu⟩
  | storeImm v =>
    rw [exec_storeImmInstr] at h
    cases v <;> obtain ⟨u, hu, rfl⟩ := andThen_next_eq_next.1 h <;>
      exact ⟨_, mem_storeLowered.2 rfl, asksOnce_stored (by simp) hu⟩
  | pop k rd =>
    rw [exec_popInstr] at h
    exact ⟨_, mem_loadWritten.2 (.inr rfl), asksOnce_load h⟩
  | ext k rs i hi => exact ⟨_, hsp, extend_asksOnce hi h⟩
  | umul rd rs hr | smul rd rs hr => exact ⟨[rd, rs], by simpa [eq_comm] using hr, asksOnce_multiplyWide h⟩
  | shiftReg op rd rs hr =>
    rw [exec_shiftRegInstr] at h
    exact ⟨_, mem_shiftWritten.2 hr, asksOnce_shiftReg h⟩
  | shiftImm op imm =>
    rw [exec_shiftImmInstr] at h
    exact ⟨_, hsp, hflagged h⟩
  | addSimm8 imm => exact ⟨_, hsp, asksOnce_bopReg (op := .add) h⟩
  | addReg3 rs1 rs2 | com | neg | mul rs => exact ⟨_, hsp, hflagged h⟩
  | ldSimm8 imm | ldSimm17 imm | ldImm32 imm | ldReg rs | ldCc cc | ldes | leaPc off | leaInd rs off | leaFp off =>
    exact ⟨_, hsp, hwritten h⟩
  | pushBImm8 imm | pushWSimm8 imm | pushSimm8 imm | pushf => exact ⟨_, hsp, asksOnce_busPush h⟩
  | popf => exact ⟨_, hsp, asksOnce_popFlags h⟩
  | callRel12 rel | callRel24 rel | callInd rs | calla imm => exact ⟨_, hsp, asksOnce_call h⟩
  | ret => exact ⟨_, hsp, asksOnce_returnFromCall h⟩
  | djnz rel => exact ⟨_, hsp, asksOnce_decrementJump h⟩

theorem request_of_writesSpAfterStore {i : Instr} {s t : State} (hi : WritesSpAfterStore i) (h : exec i s = .next t) :
    t.spovReq = (s.spovReq || decide ((t.reg spReg).toNat < t.spov.toNat)) := by
  cases hi with
  | store z rs =>
    rw [exec_storeInstr] at h
    obtain ⟨u, hu, rfl⟩ := andThen_next_eq_next.1 h
    exact request_storedThroughSp hu
  | storeImm v =>
    rw [exec_storeImmInstr] at h
    cases v <;> obtain ⟨u, hu, rfl⟩ := andThen_next_eq_next.1 h <;> exact request_storedThroughSp hu

/-! ### No write of R15 -/

/-- An instruction leaves the request, or is one of those that write R15. -/
def RequestAccounted (i : Instr) (s t : State) : Prop :=
  t.spovReq = s.spovReq ∨ WritesSpOnce s i ∨ WritesSpAfterStore i ∨ MayWriteSpOften i

theorem AsksOnce.accounted {rs : List Reg} {i : Instr} {s t : State} (h : AsksOnce rs s t)
    (hi : spReg ∈ rs → WritesSpOnce s i) : RequestAccounted i s t := by
  by_cases hsp : spReg ∈ rs
  · exact .inr (.inl (hi hsp))
  · exact .inl (h.stays hsp)

theorem requestAccounted_store {z : Size} {m : StoreMem} {v : BitVec (Size.bits z)} {i : Instr} {s u : State}
    (hu : storeDatum z m v (storeBefore z m s) = .next u) (hpre : m = .preDec spReg → WritesSpOnce s i)
    (hpost : m = .postInc spReg → WritesSpAfterStore i) : RequestAccounted i s (storeAfter z m u) := by
  by_cases hm : m = .postInc spReg
  · exact .inr (.inr (.inl (hpost hm)))
  · exact (asksOnce_stored hm hu).accounted fun hsp => hpre (mem_storeLowered.1 hsp)

theorem requestAccounted_storeImm {m : PtrMode} {rd : Reg} {v : StoreVal} {s t : State}
    (h : storeImm m rd v s = .next t) : RequestAccounted (storeImmInstr m rd v) s t := by
  have hpre (hm : ptrMem m rd = .preDec spReg) : WritesSpOnce s (storeImmInstr m rd v) := by
    cases m <;> cases hm
    exact .storeImm v
  have hpost (hm : ptrMem m rd = .postInc spReg) : WritesSpAfterStore (storeImmInstr m rd v) := by
    cases m <;> cases hm
    exact .storeImm v
  cases v <;> obtain ⟨u, hu, rfl⟩ := andThen_next_eq_next.1 h <;> exact requestAccounted_store hu hpre hpost

theorem requestAccounted (i : Instr) (s : State) : ∀ {t}, exec i s = .next t → RequestAccounted i s t := by
  have hstays {i : Instr} {t : State} (h : SpStays s t) : RequestAccounted i s t := .inl h.request
  have hoften {i : Instr} {t : State} (h : MayWriteSpOften i) : RequestAccounted i s t := .inr (.inr (.inr h))
  have hone {i : Instr} {r : Reg} {t : State} (h : AsksOnce [r] s t) (hi : r = spReg → WritesSpOnce s i) :
      RequestAccounted i s t := h.accounted fun hsp => hi (List.mem_singleton.1 hsp).symm
  have hpush {i : Instr} {t : State} (h : AsksOnce [spReg] s t) (hi : WritesSpOnce s i) : RequestAccounted i s t :=
    hone h fun _ => hi
  have hwritten {i : Instr} {r : Reg} {v : Quad} {t : State}
      (h : Host.Outcome.next (s.writeReg r v) = (.next t : Out State)) (hi : r = spReg → WritesSpOnce s i) :
      RequestAccounted i s t := hone (next_inj.1 h ▸ asksOnce_writeReg s r v) hi
  have hflagged {i : Instr} {r : Reg} {v : Quad} {p : FlagPatch} {t : State}
      (h : Host.Outcome.next ((s.writeReg r v).setFlags p) = (.next t : Out State)) (hi : r = spReg → WritesSpOnce s i) :
      RequestAccounted i s t := hone (next_inj.1 h ▸ asksOnce_writeReg_setFlags s r v p) hi
  apply exec_by_operation (P := fun i s x => ∀ {t}, x = .next t → RequestAccounted i s t) s
  case bop =>
    intro op f t h
    refine (asksOnce_bop h).accounted fun hsp => ?_
    obtain ⟨hwrites, hd⟩ := mem_bopWritten.1 hsp
    exact .bop op f hwrites hd
  case uop => exact fun _ _ _ _ h => hstays (spStays_uop h)
  case load => exact fun k rd m _ h => (asksOnce_load h).accounted fun hsp => .load k rd m (mem_loadWritten.1 hsp)
  case store =>
    intro z m rs t h
    obtain ⟨u, hu, rfl⟩ := andThen_next_eq_next.1 h
    exact requestAccounted_store hu (fun hm => hm ▸ .store z rs) fun hm => hm ▸ .store z rs
  case storeImm => exact fun _ _ _ _ h => requestAccounted_storeImm h
  case addSimm8 => exact fun rd imm _ h => hone (asksOnce_bopReg (op := .add) h) fun hr => hr ▸ .addSimm8 imm
  case addReg3 => exact fun rd rs1 rs2 _ h => hflagged h fun hr => hr ▸ .addReg3 rs1 rs2
  case cpSimm8 => exact fun _ _ _ h => (asksOnce_bopReg (op := .cp) h).accounted fun hsp => absurd hsp List.not_mem_nil
  case cpczReg => exact fun _ _ h => hstays (next_inj.1 h ▸ spStays_setFlags s _)
  case ldSimm8 => exact fun rd imm _ h => hwritten h fun hr => hr ▸ .ldSimm8 imm
  case ldSimm17 => exact fun rd imm _ h => hwritten h fun hr => hr ▸ .ldSimm17 imm
  case ldImm32 => exact fun rd imm _ h => hwritten h fun hr => hr ▸ .ldImm32 imm
  case ldReg => exact fun rd rs _ h => hwritten h fun hr => hr ▸ .ldReg rs
  case ldCc => exact fun cc rd _ h => hwritten h fun hr => hr ▸ .ldCc cc
  case ldes => exact fun rd _ h => hwritten h fun hr => hr ▸ .ldes
  case leaPc => exact fun rd off _ h => hwritten h fun hr => hr ▸ .leaPc off
  case leaInd => exact fun rd rs off _ h => hwritten h fun hr => hr ▸ .leaInd rs off
  case leaFp => exact fun rd off _ h => hwritten h fun hr => hr ▸ .leaFp off
  case extUB => exact fun rd rs _ h => hflagged h fun hr => hr ▸ .ext .ub rs _ rfl
  case extUW => exact fun rd rs _ h => hflagged h fun hr => hr ▸ .ext .uw rs _ rfl
  case extSB => exact fun rd rs _ h => hflagged h fun hr => hr ▸ .ext .sb rs _ rfl
  case extSW => exact fun rd rs _ h => hflagged h fun hr => hr ▸ .ext .sw rs _ rfl
  case com => exact fun rd _ h => hflagged h fun hr => hr ▸ .com
  case neg => exact fun rd _ h => hflagged h fun hr => hr ▸ .neg
  case mul => exact fun rd rs _ h => hflagged h fun hr => hr ▸ .mul rs
  case umul =>
    exact fun rd rs _ h => (asksOnce_multiplyWide h).accounted fun hsp => .umul rd rs (by simpa [eq_comm] using hsp)
  case smul =>
    exact fun rd rs _ h => (asksOnce_multiplyWide h).accounted fun hsp => .smul rd rs (by simpa [eq_comm] using hsp)
  case shiftReg =>
    exact fun op rd rs _ h => (asksOnce_shiftReg h).accounted fun hsp => .shiftReg op rd rs (mem_shiftWritten.1 hsp)
  case shiftImm => exact fun op rd imm _ h => hflagged h fun hr => hr ▸ .shiftImm op imm
  case pushBImm8 => exact fun imm _ h => hpush (asksOnce_busPush h) (.pushBImm8 imm)
  case pushWSimm8 => exact fun imm _ h => hpush (asksOnce_busPush h) (.pushWSimm8 imm)
  case pushSimm8 => exact fun imm _ h => hpush (asksOnce_busPush h) (.pushSimm8 imm)
  case pushf => exact fun h => hpush (asksOnce_busPush h) .pushf
  case pop => exact fun k rd _ h => (asksOnce_load h).accounted fun _ => .pop k rd
  case popf => exact fun h => hpush (asksOnce_popFlags h) .popf
  case callRel12 => exact fun rel _ h => hpush (asksOnce_call h) (.callRel12 rel)
  case callRel24 => exact fun rel _ h => hpush (asksOnce_call h) (.callRel24 rel)
  case callInd => exact fun rs _ h => hpush (asksOnce_call h) (.callInd rs)
  case calla => exact fun imm _ h => hpush (asksOnce_call h) (.calla imm)
  case ret => exact fun h => hpush (asksOnce_returnFromCall h) .ret
  case djnz => exact fun rd rel _ h => hone (asksOnce_decrementJump h) fun hr => hr ▸ .djnz rel
  case pushmLo => exact fun mask _ _ => hoften (.pushmLo mask)
  case pushmHi => exact fun mask _ _ => hoften (.pushmHi mask)
  case popmLo => exact fun mask _ _ => hoften (.popmLo mask)
  case popmHi => exact fun mask _ _ => hoften (.popmHi mask)
  case link => exact fun imm _ _ => hoften (.link imm)
  case unlink => exact fun _ => hoften .unlink
  case udiv => exact fun rd rs _ _ => hoften (.udiv rd rs)
  case sdiv => exact fun rd rs _ _ => hoften (.sdiv rd rs)
  case trap => exact fun vec _ _ => hoften (.trap vec)
  case ill => exact fun _ => hoften .ill
  case iret => exact fun _ => hoften .iret
  case brk => exact fun _ => hoften .brk
  case jpRel12 | jpRel24 | jpInd | jpa => exact fun _ _ h => hstays (next_inj.1 h ▸ ⟨rfl, rfl⟩)
  case jpCcRel8 | jpCcRel16 => exact fun _ _ _ h => hstays (spStays_jumpConditional h)
  case atm | noflags | extendPrefix | wdt | stop | halt | ei | di => exact fun h => hstays (next_inj.1 h ▸ ⟨rfl, rfl⟩)
  case nop => exact fun h => hstays (next_inj.1 h ▸ SpStays.refl s)

/-! ### The stack check -/

theorem finishStep_drops {s : State} (h : s.spovReq = false ∨ s.sysexcp.spovf = true) :
    finishStep s = .next { s with spovReq := false } := by
  refine finishStep_eq_next.2 ?_
  rw [if_neg]
  obtain h | h := h <;> simp [h]

theorem finishStep_takes {target : Quad} {s : State} (hreq : s.spovReq = true) (hclear : s.sysexcp.spovf = false)
    (he : EntryReady s sysExcVector target) :
    ∃ t, finishStep s = .next t ∧ ExceptionTaken .stackOverflow s t s.pc target ∧ SameLatches s t ∧ t.spovReq = false := by
  obtain ⟨u, hu, ⟨hentered, hflags, hsysexcp, hmachine⟩, hlatches, -⟩ :=
    takeException_taken (e := .stackOverflow) (p := s.pc) he
  refine ⟨{ u with spovReq := false }, finishStep_eq_next.2 ?_, ⟨{ hentered with }, hflags, hsysexcp, { hmachine with }⟩,
    ⟨hlatches.ext, hlatches.noflags⟩, rfl⟩
  rw [if_pos (by simp [hreq, hclear])]
  exact ⟨u, hu, rfl⟩

/-- No instruction withdraws a request. -/
theorem request_exec {i : Instr} {s t : State} (h : exec i s = .next t) (hreq : s.spovReq = true) : t.spovReq = true := by
  by_cases hatm : i = .atm
  · subst hatm
    exact next_inj.1 h ▸ hreq
  · exact (keeps_exec hatm h).request hreq

/-- Settles O58: by the registers that an instruction writes, and by the stack check at the end of a step. -/
theorem stackOverflow : Obligations.StackOverflow := by
  unfold Obligations.StackOverflow
  refine ⟨fun i s t h => ⟨request_exec h, fun hu hi => ?_, fun hi => request_of_writesSpAfterStore hi h,
    requestAccounted i s h⟩, fun r v s => writeReg_spovReq s r v, fun target s hreq hclear he =>
    finishStep_takes hreq hclear he, fun s h => finishStep_drops h⟩
  obtain ⟨rs, hsp, hrs⟩ := asksOnce_of_writesSpOnce hi h
  exact hrs.asks hsp hu

end Sys2Proof.Claims
